-- ==== Sys2Proof/Word.lean ====
section
/-! DEFINITION. The widths of the machine: bytes, 16-bit words, 24-bit addresses, register numbers. -/

namespace Sys2Proof

/-- A byte of memory, of CP, BR, EP, DP, TP (10_state.md R27, R33). -/
abbrev Byte := BitVec 8

/-- A 16-bit quantity: general registers, PC, SR (10_state.md R20, R24, R28). -/
abbrev Word := BitVec 16

/-- A physical address, wide enough for maximum mode (20_memory.md R51, R52). -/
abbrev Addr := BitVec 24

/-- A general register number, R0 to R7 (10_state.md R20). -/
abbrev Reg := Fin 8

/-- The operand size `Sz` of an instruction (30_encoding.md R83). -/
inductive Size where
  | byte
  | word
deriving DecidableEq, Repr

/-- The operand size in bits, the `n` of every rule (00_scope.md R9). -/
abbrev Size.bits : Size → Nat
  | .byte => 8
  | .word => 16

end Sys2Proof
end

