-- ==== Sys2Proof/Config.lean ====
section
/-! DEFINITION. What an implementation fixes: the parameters of 00_scope.md R4 at the spec's defaults, and the
free values (`UNSPEC`, 00_scope.md R11), which have no body so that no proof can see them. -/

namespace Sys2Proof

/-- DESIGN CHOICE (notes/assumptions/8.md): the n-th one-bit free value. -/
opaque Config.freeBit : Nat → Bool

/-- DESIGN CHOICE (notes/assumptions/8.md): the n-th 8-bit free value. -/
opaque Config.freeByte : Nat → Byte

/-- DESIGN CHOICE (notes/assumptions/8.md): the n-th 16-bit free value. -/
opaque Config.freeWord : Nat → Word

/-- `SP_INDEX` (R4): SP is R7 (10_state.md R23, D17). -/
def Config.spIndex : Reg := 7

/-- FP is R6 (10_state.md R22). -/
def Config.fpIndex : Reg := 6

/-- `Z_STICKY` (R4, D11): ADDX, SUBX, DADD and DSUB can only clear Z. UNVERIFIED (notes/assumptions/17.md). -/
def Config.zSticky : Bool := true

/-- `VEC_RESET` (R4, 60_exceptions.md R293). -/
def Config.vecReset : Nat := 0

/-- `VEC_INVALID` (R4, R293). -/
def Config.vecInvalid : Nat := 2

/-- `VEC_ZERODIV` (R4, R293). -/
def Config.vecZeroDiv : Nat := 3

/-- `VEC_TRAPVS` (R4, R293). -/
def Config.vecTrapVs : Nat := 4

/-- `VEC_ADDRERR` (R4, R293). -/
def Config.vecAddrErr : Nat := 8

/-- `VEC_TRACE` (R4, R293). -/
def Config.vecTrace : Nat := 9

/-- `VEC_NMI` (R4, R293). -/
def Config.vecNmi : Nat := 11

/-- The entry of TRAPA vector 0: `TRAPA_BASE / VECSIZE` in both modes (20_memory.md R60, R293). -/
def Config.vecTrapa : Nat := 16

end Sys2Proof
end

