-- ==== Sys2Proof/Machine/State.lean ====
section
/-! DEFINITION. The state of the machine as plain data, the reasons a step can stop, and the state after reset. -/

namespace Sys2Proof.Machine

/-- The operating mode, fixed for a run (00_scope.md R4, 10_state.md R35 (a)). -/
inductive Mode where
  | min
  | max
deriving DecidableEq, Repr

/-- The run state (10_state.md R35 (b), 60_exceptions.md R315). -/
inductive RunState where
  | running
  | powerDown
deriving DecidableEq, Repr

/-- The four flags of CCR (10_state.md R29). -/
structure Flags where
  n : Bool
  z : Bool
  v : Bool
  c : Bool
deriving DecidableEq, Repr

/-- SR by its implemented bits (10_state.md R28 to R30): T, I2-I0 and the flags. The other bits read as 0 and are
not written, so they are not held (notes/assumptions/15.md). -/
structure Status where
  /-- T, bit 15: trace. -/
  t : Bool
  /-- I2-I0, bits 10 to 8: the interrupt mask level. -/
  imask : BitVec 3
  /-- N, Z, V, C, bits 3 to 0. -/
  flags : Flags
deriving DecidableEq, Repr

/-- Memory: the bytes supplied at launch or stored since, by rising address; an address not listed has no value
(20_memory.md R61, 60_exceptions.md R324; notes/assumptions/1.md). -/
abbrev Memory := List Host.Cell

/-- The whole state of the machine. -/
structure State where
  /-- MODE (R35 (a)); no instruction changes it. -/
  mode : Mode
  /-- R0 to R7 (R20). -/
  regs : Vector Word 8
  /-- PC (R24). -/
  pc : Word
  /-- CP, the code page (R27). -/
  cp : Byte
  /-- SR, whose low byte is CCR (R28 to R30). -/
  sr : Status
  /-- BR, the base of `@aa:8` (R33). -/
  br : Byte
  /-- EP, the extended page (R33). -/
  ep : Byte
  /-- DP, the data page (R33). -/
  dp : Byte
  /-- TP, the stack page (R33). -/
  tp : Byte
  /-- Normal running or power-down (R35 (b)). -/
  runState : RunState
  /-- The one memory (20_memory.md R50). -/
  mem : Memory
  /-- The addresses stored to since launch, rising (20_memory.md R67; notes/assumptions/7.md). -/
  stored : List Nat
  /-- The model's own counter of free values drawn (00_scope.md R11 `UNSPEC`; notes/assumptions/8.md). -/
  draws : Nat
deriving DecidableEq, Repr

/-- Why the machine stops with a fault. -/
inductive Fault where
  /-- An AddressError inside the exception entry sequence: raised by `takeException` when SP is odd
  (60_exceptions.md R296, D41). Safe: the spec ends the run here. -/
  | doubleFault
deriving DecidableEq, Repr

/-- Why the model gives a step no meaning. Every constructor but the first is a `REFUSE` of the spec. -/
inductive Refusal where
  /-- Raised by an arm of `exec` whose instruction has no meaning yet; none is left. Safe. -/
  | notModelled (mnemonic : String)
  /-- LDC, STC, ANDC, ORC, XORC with a (size, register) pair marked "(Not allowed)": "Specifying a disallowed
  combination may cause abnormal results" (10_state.md R32, 46_system.md R277, U1). Safe. -/
  | controlRegisterNotAllowed
  /-- BSET, BCLR, BNOT, BTST with a bit number of 8 to 15 on a byte (44_bit.md R215, U2). Safe. -/
  | bitNumberOnByte
  /-- A byte operand `@-R7` or `@R7+` (20_memory.md R70, U6). Safe. -/
  | byteThroughStackPointer
  /-- The register operand is the auto-modified base register (20_memory.md R70, U7). Safe. -/
  | registerIsAutoBase
  /-- LDM or STM with R7 in the list (40_data_transfer.md R130, R131, U8). Safe. -/
  | stackPointerInList
  /-- DADD or DSUB on an operand that is not two decimal digits (41_arithmetic.md R156, R160, U10). Safe. -/
  | nonDecimalOperand
  /-- MULXU.W or DIVXU.W with an odd Rd (41_arithmetic.md R161, R162, U17). Safe. -/
  | oddPairRegister
  /-- PJMP, PJSR, PRTS, PRTD in minimum mode (45_branch.md R245, R248, R250, R252, U17). Safe. -/
  | pageInstructionInMinimumMode
  /-- PJMP @R7 or PJSR @R7 (45_branch.md R245, R248, U17). Safe. -/
  | pageTargetInR7
  /-- A read of a byte neither supplied at launch nor stored since (60_exceptions.md R324, U14). Safe. -/
  | memoryNotSupplied
  /-- A fetch of an instruction byte the program stored (20_memory.md R67, U16). Safe. -/
  | fetchOfStoredByte
deriving DecidableEq, Repr

/-- The outcome of a step of this machine. -/
abbrev Outcome := Host.Outcome State Fault Refusal

/-- The machine right after reset (10_state.md R37, 70_reset_and_hazards.md R330). T, I2-I0 and the run state are the
spec's; memory is the launch's and lists nothing; every value R37 leaves unspecified is 0, DESIGN CHOICE
(notes/assumptions/2.md to 6.md). -/
def State.reset : State where
  mode := .min
  regs := Vector.replicate 8 0
  pc := 0
  cp := 0
  sr := { t := false, imask := 7, flags := { n := false, z := false, v := false, c := false } }
  br := 0
  ep := 0
  dp := 0
  tp := 0
  runState := .running
  mem := []
  stored := []
  draws := 0

end Sys2Proof.Machine
end

