-- ==== Sys2Proof/Machine/Flags.lean ====
section
/-! DEFINITION. The flag computations of 00_scope.md R13, over operands of any size, and the branch conditions of
45_branch.md R225. -/

namespace Sys2Proof.Machine

/-- `a + b + c` modulo 2^n (R13). -/
def addWith {n : Nat} (a b : BitVec n) (c : Bool) : BitVec n := BitVec.ofNat n (a.toNat + b.toNat + c.toNat)

/-- `a - b - c` modulo 2^n (R13). -/
def subWith {n : Nat} (a b : BitVec n) (c : Bool) : BitVec n :=
  BitVec.ofInt n ((a.toNat : Int) - (b.toNat : Int) - (c.toNat : Int))

/-- `AddFlags(a, b, c, n)` (R13). -/
def addFlags {n : Nat} (a b : BitVec n) (c : Bool) : Flags :=
  let r := addWith a b c
  { n := r.msb
    z := r == 0
    v := a.msb == b.msb && r.msb != a.msb
    c := decide (2 ^ n ≤ a.toNat + b.toNat + c.toNat) }

/-- `SubFlags(a, b, c, n)` (R13); C is the borrow. -/
def subFlags {n : Nat} (a b : BitVec n) (c : Bool) : Flags :=
  let r := subWith a b c
  { n := r.msb
    z := r == 0
    v := a.msb != b.msb && r.msb != a.msb
    c := decide (a.toNat < b.toNat + c.toNat) }

/-- N and Z of a result, with V and C given: the shape of every other flag row of 10_state.md R31. -/
def resultFlags {n : Nat} (r : BitVec n) (v c : Bool) : Flags := { n := r.msb, z := r == 0, v := v, c := c }

/-- `LogicFlags(r, n)` (R13): N and Z from the result, V cleared, C kept. -/
def logicFlags {n : Nat} (r : BitVec n) (old : Flags) : Flags := resultFlags r false old.c

/-- Z after ADDX, SUBX, DADD, DSUB: with `Z_STICKY` it can only be cleared (41_arithmetic.md R155, D11). -/
def stickyZ (old new : Bool) : Bool := if Config.zSticky then old && new else new

/-- The flags of ADDX and SUBX: those of the sum or difference, but for Z (R155, R159). -/
def stickyFlags (old new : Flags) : Flags := { new with z := stickyZ old.z new.z }

/-- The sixteen conditions (45_branch.md R225). -/
inductive Cond where
  | bra | brn | bhi | bls | bcc | bcs | bne | beq | bvc | bvs | bpl | bmi | bge | blt | bgt | ble
deriving DecidableEq, Repr

/-- Whether a condition holds, the last column of R225. -/
def condHolds (f : Flags) : Cond → Bool
  | .bra => true
  | .brn => false
  | .bhi => !f.c && !f.z
  | .bls => f.c || f.z
  | .bcc => !f.c
  | .bcs => f.c
  | .bne => !f.z
  | .beq => f.z
  | .bvc => !f.v
  | .bvs => f.v
  | .bpl => !f.n
  | .bmi => f.n
  | .bge => f.n == f.v
  | .blt => f.n != f.v
  | .bgt => !f.z && f.n == f.v
  | .ble => f.z || f.n != f.v

end Sys2Proof.Machine
end

