-- ==== Sys2Proof/Machine/Ops.lean ====
section
/-! DEFINITION. The named operations over the state: registers, SR, memory, address formation, the stack, taking an
exception and returning from one. -/

namespace Sys2Proof.Machine

/-! ## How an operation can stop -/

/-- What ends a run. -/
inductive Halt where
  | fault (f : Fault)
  | refused (r : Refusal)
deriving DecidableEq, Repr

/-- What abandons an instruction: AddressError, with the register the instruction has already written and whose value
is then unspecified (60_exceptions.md R304, U11), or the end of the run. -/
inductive Stop where
  | addressError (touched : Option Reg)
  | halt (h : Halt)
deriving DecidableEq, Repr

/-- A refusal inside an instruction. -/
def refuse {α : Type} (r : Refusal) : Except Stop α := .error (.halt (.refused r))

/-! ## Registers -/

/-- `R[r]` (10_state.md R20). -/
def State.reg (s : State) (r : Reg) : Word := s.regs[r]

/-- `R[r] <- v` (R20). -/
def State.setReg (s : State) (r : Reg) (v : Word) : State := { s with regs := s.regs.set r v }

/-- SP (R23). -/
def State.sp (s : State) : Word := s.reg Config.spIndex

/-- `SP <- v` (R23). -/
def State.setSp (s : State) (v : Word) : State := s.setReg Config.spIndex v

/-- The operand of size `sz` in a register: bits 7 to 0, or all (R20, R21). -/
def State.regOp (sz : Size) (s : State) (r : Reg) : BitVec sz.bits := (s.reg r).setWidth sz.bits

/-- A register with its low byte replaced (R21, D8). -/
def withLowByte (old : Word) (v : Byte) : Word := old.extractLsb' 8 8 ++ v

/-- Writes an operand of size `sz` to a register: a byte keeps bits 15 to 8 (R21, D8). -/
def State.setRegOp (sz : Size) (s : State) (r : Reg) (v : BitVec sz.bits) : State :=
  match sz, v with
  | .byte, v => s.setReg r (withLowByte (s.reg r) v)
  | .word, v => s.setReg r v

/-- `PC <- v` (R24). -/
def State.setPc (s : State) (v : Word) : State := { s with pc := v }

/-- `CP <- v` (R27). -/
def State.setCp (s : State) (v : Byte) : State := { s with cp := v }

/-- Replaces SR (R28). -/
def State.setSr (s : State) (v : Status) : State := { s with sr := v }

/-- The flags N, Z, V, C (R29). -/
def State.flags (s : State) : Flags := s.sr.flags

/-- Replaces N, Z, V, C and nothing else of SR (R29). -/
def State.setFlags (s : State) (f : Flags) : State := { s with sr := { s.sr with flags := f } }

/-- `BR <- v` (R33). -/
def State.setBr (s : State) (v : Byte) : State := { s with br := v }

/-- `EP <- v` (R33). -/
def State.setEp (s : State) (v : Byte) : State := { s with ep := v }

/-- `DP <- v` (R33). -/
def State.setDp (s : State) (v : Byte) : State := { s with dp := v }

/-- `TP <- v` (R33). -/
def State.setTp (s : State) (v : Byte) : State := { s with tp := v }

/-- Changes the run state (R35 (b)). -/
def State.setRunState (s : State) (v : RunState) : State := { s with runState := v }

/-- Records that `k` free values have been drawn (00_scope.md R11). -/
def State.addDraws (s : State) (k : Nat) : State := { s with draws := s.draws + k }

/-! ## SR as a word -/

/-- Bits 3 to 0 of SR (10_state.md R30). -/
def Flags.toBits (f : Flags) : BitVec 4 :=
  BitVec.ofBool f.n ++ BitVec.ofBool f.z ++ BitVec.ofBool f.v ++ BitVec.ofBool f.c

/-- The flags held by bits 3 to 0 of a value (R30). -/
def Flags.ofBits (b : BitVec 4) : Flags :=
  { n := b.getLsbD 3, z := b.getLsbD 2, v := b.getLsbD 1, c := b.getLsbD 0 }

/-- CCR = SR[7:0]; bits 7 to 4 read as 0 (R30). -/
def Status.toCcr (x : Status) : Byte := 0#4 ++ x.flags.toBits

/-- SR as the 16-bit word that STC reads and exception entry stacks; reserved bits read as 0 (R30). -/
def Status.toWord (x : Status) : Word := BitVec.ofBool x.t ++ 0#4 ++ x.imask ++ x.toCcr

/-- What SR holds after `v and SR_MASK` is written to it (R30, 46_system.md R277). -/
def Status.ofWord (v : Word) : Status :=
  { t := v.getLsbD 15, imask := v.extractLsb' 8 3, flags := Flags.ofBits (v.extractLsb' 0 4) }

/-- What SR holds after a byte is written to CCR: bits 15 to 8 stay (46_system.md R277). -/
def Status.withCcr (x : Status) (v : Byte) : Status := { x with flags := Flags.ofBits (v.extractLsb' 0 4) }

/-! ## Memory -/

/-- The byte at an address, if it was supplied at launch or stored since (20_memory.md R55). -/
def Memory.read : Memory → Nat → Option Byte
  | [], _ => none
  | (b, v) :: rest, a => if a = b then some v else Memory.read rest a

/-- Sets one byte, keeping the addresses rising. -/
def Memory.write : Memory → Nat → Byte → Memory
  | [], a, v => [(a, v)]
  | (b, w) :: rest, a, v =>
    if a < b then (a, v) :: (b, w) :: rest
    else if a = b then (a, v) :: rest
    else (b, w) :: Memory.write rest a v

/-- The canonical form: addresses strictly rising. An unlisted address has no value, so no entry can repeat one. -/
def Memory.wf (m : Memory) : Bool := decide ((m.map Prod.fst).Pairwise (· < ·))

/-- Adds an address to a rising list without repeats. -/
def insertAddress : List Nat → Nat → List Nat
  | [], a => [a]
  | b :: rest, a => if a < b then a :: b :: rest else if a = b then b :: rest else b :: insertAddress rest a

/-- The number of bytes of the address space (20_memory.md R51, R52). -/
def Mode.addressSpace : Mode → Nat
  | .min => 2 ^ 16
  | .max => 2 ^ 24

/-- The byte at a physical address. -/
def State.byteAt (s : State) (a : Addr) : Option Byte := s.mem.read a.toNat

/-- `MemRead(a, 1)` (R55); a byte that was never supplied is refused (60_exceptions.md R324). -/
def State.readByte (s : State) (a : Addr) : Except Stop Byte :=
  match s.byteAt a with
  | some v => .ok v
  | none => refuse .memoryNotSupplied

/-- The big-endian word at a physical address, whatever its parity (20_memory.md R54). -/
def State.wordAt (s : State) (a : Addr) : Option Word :=
  match s.byteAt a, s.byteAt (a + 1) with
  | some h, some l => some (h ++ l)
  | _, _ => none

/-- An address where a word may lie (R57). -/
def isEven (a : Addr) : Bool := !a.getLsbD 0

/-- `MemRead(a, 2)` (R55): AddressError at an odd address. -/
def State.readWord (s : State) (touched : Option Reg) (a : Addr) : Except Stop Word :=
  if isEven a then
    match s.wordAt a with
    | some v => .ok v
    | none => refuse .memoryNotSupplied
  else .error (.addressError touched)

/-- Stores one byte and marks its address as stored to (R55, R67). -/
def State.storeByte (s : State) (a : Addr) (v : Byte) : State :=
  { s with mem := s.mem.write a.toNat v, stored := insertAddress s.stored a.toNat }

/-- Stores a word big-endian, high byte at the lower address (R54, R55). -/
def State.storeWord (s : State) (a : Addr) (v : Word) : State :=
  (s.storeByte a (v.extractLsb' 8 8)).storeByte (a + 1) (v.extractLsb' 0 8)

/-- `MemWrite(a, 2, v)` (R55): AddressError at an odd address, before any part of the access (R57). -/
def State.writeWord (s : State) (touched : Option Reg) (a : Addr) (v : Word) : Except Stop State :=
  if isEven a then .ok (s.storeWord a v) else .error (.addressError touched)

/-! ## Address formation -/

/-- The spaces of `Phys(space, a16)` (20_memory.md R53). -/
inductive Space where
  | code
  | dataReg (r : Reg)
  | abs16
  | abs8
  | stack
  | vector
deriving DecidableEq, Repr

/-- The page register of a register-based access: DP for R0-R3, EP for R4 and R5, TP for R6 and R7 (R53, D30). -/
def regPage (s : State) (r : Reg) : Byte := if r.val < 4 then s.dp else if r.val < 6 then s.ep else s.tp

/-- `PageOf(space)` (R53). -/
def pageOf (s : State) : Space → Byte
  | .code => s.cp
  | .dataReg r => regPage s r
  | .abs16 => s.dp
  | .abs8 => 0
  | .stack => s.tp
  | .vector => 0

/-- `Phys(space, a16)` (R53): the address itself in minimum mode, page : offset in maximum mode. -/
def phys (s : State) (sp : Space) (a : Word) : Addr :=
  match s.mode with
  | .min => a.setWidth 24
  | .max => pageOf s sp ++ a

/-! ## The stack -/

/-- The state after a word is pushed, whatever the parity of SP: SP - 2, the word stored at the new SP. -/
def State.pushRaw (s : State) (v : Word) : State :=
  (s.setSp (s.sp - 2)).storeWord (phys s .stack (s.sp - 2)) v

/-- `Push16(v)` (00_scope.md R11): AddressError when SP is odd. SP then stays odd whether or not it was decremented
(notes/assumptions/10.md). -/
def State.push16 (s : State) (v : Word) : Except Stop State :=
  if isEven (phys s .stack (s.sp - 2)) then .ok (s.pushRaw v) else .error (.addressError none)

/-- `Pop16()` (00_scope.md R11): AddressError when SP is odd; `touched` is what the instruction wrote before. -/
def State.pop16 (s : State) (touched : Option Reg := none) : Except Stop (Word × State) := do
  let v ← s.readWord touched (phys s .stack s.sp)
  pure (v, s.setSp (s.sp + 2))

/-! ## Exceptions -/

/-- `CPword(CP)`: CP in the low byte, a free value in the high byte (60_exceptions.md R300, U13). -/
def State.cpWord (s : State) : Word := Config.freeByte s.draws ++ s.cp

/-- Pushes `CPword(CP)`; one free value is drawn (R300). -/
def State.pushCp (s : State) : Except Stop State := (s.addDraws 1).push16 s.cpWord

/-- In maximum mode CP is pushed too (R296). -/
def State.pushPage (s : State) : Except Stop State :=
  match s.mode with
  | .min => .ok s
  | .max => s.pushCp

/-- In maximum mode CP is popped too: the low byte of its word (R300, R308). -/
def State.popPage (s : State) : Except Stop State :=
  match s.mode with
  | .min => .ok s
  | .max => do
    let (w, s1) ← s.pop16
    pure (s1.setCp (w.extractLsb' 0 8))

/-- What an AddressError inside the entry sequence does: the terminal double fault (R296, D41). -/
def inEntry {α : Type} : Except Stop α → Except Halt α
  | .ok a => .ok a
  | .error (.addressError _) => .error (.fault .doubleFault)
  | .error (.halt h) => .error h

/-- Reads the vector table entry `n` (R293, R299): the new PC, and in maximum mode the new CP. -/
def loadVector (n : Nat) (s : State) : Except Stop State :=
  match s.mode with
  | .min => do
    let pc ← s.readWord none (phys s .vector (BitVec.ofNat 16 (2 * n)))
    pure (s.setPc pc)
  | .max => do
    let hi ← s.readWord none (phys s .vector (BitVec.ofNat 16 (4 * n)))
    let pc ← s.readWord none (phys s .vector (BitVec.ofNat 16 (4 * n + 2)))
    pure ((s.setCp (hi.extractLsb' 0 8)).setPc pc)

/-- Stacks PC, in maximum mode CP, and SR as they were before entry (R296). -/
def stackFrame (ret : Word) (s : State) : Except Stop State := do
  let s1 ← s.push16 ret
  let s2 ← s1.pushPage
  s2.push16 s.sr.toWord

/-- `TakeException(entry n, return PC = ret)` (R296, R297): the frame, T cleared, the vector, normal running. The
interrupt mask and the flags stay (R297). -/
def takeException (n : Nat) (ret : Word) (s : State) : Except Halt State := do
  let s1 ← inEntry (stackFrame ret s)
  let s2 ← inEntry (loadVector n (s1.setSr { s1.sr with t := false }))
  pure (s2.setRunState .running)

/-- AddressError taken through `VEC_ADDRERR` (R304): the stacked PC and the register already written by the
instruction are free values (R298, U11; notes/assumptions/10.md). `s` is the state before the instruction. -/
def raiseAddressError (touched : Option Reg) (s : State) : Except Halt State :=
  let s1 := match touched with
    | none => s
    | some r => (s.setReg r (Config.freeWord s.draws)).addDraws 1
  takeException Config.vecAddrErr (Config.freeWord s1.draws) (s1.addDraws 1)

/-- InvalidInstruction taken through `VEC_INVALID` (R302): nothing is changed by the offending bytes and the stacked
PC is a free value (R298; notes/assumptions/9.md). -/
def raiseInvalidInstruction (s : State) : Except Halt State :=
  takeException Config.vecInvalid (Config.freeWord s.draws) (s.addDraws 1)

/-- RTE (46_system.md R267, 60_exceptions.md R308): pops SR, in maximum mode CP, and PC. -/
def returnFromException (s : State) : Except Stop State := do
  let (w, s1) ← s.pop16
  let s2 ← (s1.setSr (Status.ofWord w)).popPage
  let (pc, s3) ← s2.pop16
  pure (s3.setPc pc)

/-! ## From an operation to the outcome of a step -/

/-- The outcome of an exception entry. -/
def ofEntry : Except Halt State → Outcome
  | .ok s => .next s
  | .error (.fault f) => .fault f
  | .error (.refused r) => .refused r

/-- The outcome of an instruction begun in `s`: an AddressError is taken from there (60_exceptions.md R304). -/
def complete (s : State) : Except Stop State → Outcome
  | .ok t => .next t
  | .error (.addressError touched) => ofEntry (raiseAddressError touched s)
  | .error (.halt h) => ofEntry (.error h)

/-- An exception the instruction itself raises (TRAPA, TRAP/VS, ZeroDivide). -/
def raised : Except Halt State → Except Stop State
  | .ok s => .ok s
  | .error h => .error (.halt h)

end Sys2Proof.Machine
end

