-- ==== Sys2Proof/Syntax.lean ====
section
/-! DEFINITION. The instructions: one constructor per row of spec/opcode_table.json, in the table's order. -/

namespace Sys2Proof

/-- The seven memory addressing modes, class M (30_encoding.md R82, R88). -/
inductive MemEa where
  /-- `@Rn` -/
  | ind (r : Reg)
  /-- `@(d:8,Rn)` -/
  | disp8 (r : Reg) (d : Byte)
  /-- `@(d:16,Rn)` -/
  | disp16 (r : Reg) (d : Word)
  /-- `@-Rn` -/
  | preDec (r : Reg)
  /-- `@Rn+` -/
  | postInc (r : Reg)
  /-- `@aa:8` -/
  | abs8 (a : Byte)
  /-- `@aa:16` -/
  | abs16 (a : Word)
deriving DecidableEq, Repr

/-- A destination operand, class R or M (R88). -/
inductive DstEa where
  | reg (r : Reg)
  | mem (m : MemEa)
deriving DecidableEq, Repr

/-- An immediate EA field, class I (R88); its width is the operand size (R82). -/
inductive ImmEa where
  | imm8 (v : Byte)
  | imm16 (v : Word)
deriving DecidableEq, Repr

/-- A source operand, class R, M or I (R88): the ten addressing modes. -/
inductive SrcEa where
  | reg (r : Reg)
  | mem (m : MemEa)
  | imm (i : ImmEa)
deriving DecidableEq, Repr

/-- The control register number `ccc` (10_state.md R32). `ccc010` and `ccc110` are the two numbers the
table marks "(Not allowed)" in both sizes. -/
inductive CtlReg where
  | sr
  | ccr
  | ccc010
  | br
  | ep
  | dp
  | ccc110
  | tp
deriving DecidableEq, Repr

/-- The instructions. The ten `ea…` constructors are the rows `<EA>` of the table: an EA field (30_encoding.md
R82) followed by an OP field that R99 lists as unassigned (notes/assumptions/25.md). -/
inductive Instr where
  /-- EA field `Rn` before an unassigned OP field (R82, R99) -/
  | eaRn (sz : Size) (r : Reg)
  /-- EA field `@Rn` before an unassigned OP field (R82, R99) -/
  | eaInd (sz : Size) (r : Reg)
  /-- EA field `@(d:8,Rn)` before an unassigned OP field (R82, R99) -/
  | eaDisp8 (sz : Size) (r : Reg) (d : Byte)
  /-- EA field `@(d:16,Rn)` before an unassigned OP field (R82, R99) -/
  | eaDisp16 (sz : Size) (r : Reg) (d : Word)
  /-- EA field `@-Rn` before an unassigned OP field (R82, R99) -/
  | eaPreDec (sz : Size) (r : Reg)
  /-- EA field `@Rn+` before an unassigned OP field (R82, R99) -/
  | eaPostInc (sz : Size) (r : Reg)
  /-- EA field `@aa:8` before an unassigned OP field (R82, R99) -/
  | eaAbs8 (sz : Size) (a : Byte)
  /-- EA field `@aa:16` before an unassigned OP field (R82, R99) -/
  | eaAbs16 (sz : Size) (a : Word)
  /-- EA field `#xx:8` before an unassigned OP field (R82, R99) -/
  | eaImm8 (v : Byte)
  /-- EA field `#xx:16` before an unassigned OP field (R82, R99) -/
  | eaImm16 (v : Word)
  /-- `MOV:G.<S> <EAs>,Rd` (R121) -/
  | movGLoad (sz : Size) (src : SrcEa) (d : Reg)
  /-- `MOV:G.<S> Rs,<EAd>` (R122) -/
  | movGStore (sz : Size) (s : Reg) (m : MemEa)
  /-- `MOV:G.<S> #xx:8,<EAd>` (R123) -/
  | movGImm8 (sz : Size) (v : Byte) (m : MemEa)
  /-- `MOV:G.W #xx:16,<EAd>` (R123) -/
  | movGImm16 (v : Word) (m : MemEa)
  /-- `LDM.W @SP+,<register list>` (R130) -/
  | ldm (list : Byte)
  /-- `STM.W <register list>,@-SP` (R131) -/
  | stm (list : Byte)
  /-- `XCH.W Rs,Rd` (R132) -/
  | xch (s d : Reg)
  /-- `SWAP.B Rd` (R133) -/
  | swap (d : Reg)
  /-- `MOVTPE.B Rs,<EAd>` (R134) -/
  | movtpe (s : Reg) (m : MemEa)
  /-- `MOVFPE.B <EAs>,Rd` (R135) -/
  | movfpe (m : MemEa) (d : Reg)
  /-- `ADD:G.<S> <EAs>,Rd` (R152) -/
  | addG (sz : Size) (src : SrcEa) (d : Reg)
  /-- `ADD:Q.<S> #1,<EAd>` (R153) -/
  | addQ1 (sz : Size) (dst : DstEa)
  /-- `ADD:Q.<S> #2,<EAd>` (R153) -/
  | addQ2 (sz : Size) (dst : DstEa)
  /-- `ADD:Q.<S> #-1,<EAd>` (R153) -/
  | addQm1 (sz : Size) (dst : DstEa)
  /-- `ADD:Q.<S> #-2,<EAd>` (R153) -/
  | addQm2 (sz : Size) (dst : DstEa)
  /-- `ADDS.<S> <EAs>,Rd` (R154) -/
  | adds (sz : Size) (src : SrcEa) (d : Reg)
  /-- `ADDX.<S> <EAs>,Rd` (R155) -/
  | addx (sz : Size) (src : SrcEa) (d : Reg)
  /-- `DADD.B Rs,Rd` (R156) -/
  | dadd (s d : Reg)
  /-- `SUB.<S> <EAs>,Rd` (R157) -/
  | sub (sz : Size) (src : SrcEa) (d : Reg)
  /-- `SUBS.<S> <EAs>,Rd` (R158) -/
  | subs (sz : Size) (src : SrcEa) (d : Reg)
  /-- `SUBX.<S> <EAs>,Rd` (R159) -/
  | subx (sz : Size) (src : SrcEa) (d : Reg)
  /-- `DSUB.B Rs,Rd` (R160) -/
  | dsub (s d : Reg)
  /-- `MULXU.<S> <EAs>,Rd` (R161) -/
  | mulxu (sz : Size) (src : SrcEa) (d : Reg)
  /-- `DIVXU.<S> <EAs>,Rd` (R162) -/
  | divxu (sz : Size) (src : SrcEa) (d : Reg)
  /-- `CMP:G.<S> <EAs>,Rd` (R163) -/
  | cmpG (sz : Size) (src : SrcEa) (d : Reg)
  /-- `CMP:G.B #xx:8,<EAd>` (R164) -/
  | cmpGImm8 (v : Byte) (m : MemEa)
  /-- `CMP:G.W #xx:16,<EAd>` (R164) -/
  | cmpGImm16 (v : Word) (m : MemEa)
  /-- `EXTS.B Rd` (R167) -/
  | exts (d : Reg)
  /-- `EXTU.B Rd` (R168) -/
  | extu (d : Reg)
  /-- `TST.<S> <EAd>` (R169) -/
  | tst (sz : Size) (dst : DstEa)
  /-- `NEG.<S> <EAd>` (R170) -/
  | neg (sz : Size) (dst : DstEa)
  /-- `CLR.<S> <EAd>` (R171) -/
  | clr (sz : Size) (dst : DstEa)
  /-- `TAS.B <EAd>` (R172) -/
  | tas (dst : DstEa)
  /-- `SHAL.<S> <EAd>` (R191) -/
  | shal (sz : Size) (dst : DstEa)
  /-- `SHAR.<S> <EAd>` (R192) -/
  | shar (sz : Size) (dst : DstEa)
  /-- `SHLL.<S> <EAd>` (R193) -/
  | shll (sz : Size) (dst : DstEa)
  /-- `SHLR.<S> <EAd>` (R194) -/
  | shlr (sz : Size) (dst : DstEa)
  /-- `ROTL.<S> <EAd>` (R195) -/
  | rotl (sz : Size) (dst : DstEa)
  /-- `ROTR.<S> <EAd>` (R196) -/
  | rotr (sz : Size) (dst : DstEa)
  /-- `ROTXL.<S> <EAd>` (R197) -/
  | rotxl (sz : Size) (dst : DstEa)
  /-- `ROTXR.<S> <EAd>` (R198) -/
  | rotxr (sz : Size) (dst : DstEa)
  /-- `AND.<S> <EAs>,Rd` (R206) -/
  | and (sz : Size) (src : SrcEa) (d : Reg)
  /-- `OR.<S> <EAs>,Rd` (R207) -/
  | or (sz : Size) (src : SrcEa) (d : Reg)
  /-- `XOR.<S> <EAs>,Rd` (R208) -/
  | xor (sz : Size) (src : SrcEa) (d : Reg)
  /-- `NOT.<S> <EAd>` (R209) -/
  | not (sz : Size) (dst : DstEa)
  /-- `BSET.<S> #xx,<EAd>` (R216) -/
  | bsetImm (sz : Size) (k : BitVec 4) (dst : DstEa)
  /-- `BSET.<S> Rs,<EAd>` (R216) -/
  | bsetReg (sz : Size) (s : Reg) (dst : DstEa)
  /-- `BCLR.<S> #xx,<EAd>` (R217) -/
  | bclrImm (sz : Size) (k : BitVec 4) (dst : DstEa)
  /-- `BCLR.<S> Rs,<EAd>` (R217) -/
  | bclrReg (sz : Size) (s : Reg) (dst : DstEa)
  /-- `BNOT.<S> #xx,<EAd>` (R219) -/
  | bnotImm (sz : Size) (k : BitVec 4) (dst : DstEa)
  /-- `BNOT.<S> Rs,<EAd>` (R219) -/
  | bnotReg (sz : Size) (s : Reg) (dst : DstEa)
  /-- `BTST.<S> #xx,<EAd>` (R218) -/
  | btstImm (sz : Size) (k : BitVec 4) (dst : DstEa)
  /-- `BTST.<S> Rs,<EAd>` (R218) -/
  | btstReg (sz : Size) (s : Reg) (dst : DstEa)
  /-- `MOV:E.B #xx:8,Rd` (R124) -/
  | movE (v : Byte) (d : Reg)
  /-- `MOV:I.W #xx:16,Rd` (R127) -/
  | movI (v : Word) (d : Reg)
  /-- `MOV:L.B @aa:8,Rd` (R128) -/
  | movLB (a : Byte) (d : Reg)
  /-- `MOV:L.W @aa:8,Rd` (R128) -/
  | movLW (a : Byte) (d : Reg)
  /-- `MOV:S.B Rs,@aa:8` (R129) -/
  | movSB (s : Reg) (a : Byte)
  /-- `MOV:S.W Rs,@aa:8` (R129) -/
  | movSW (s : Reg) (a : Byte)
  /-- `MOV:F.B @(d:8,R6),Rd` (R125) -/
  | movFLoadB (x : Byte) (d : Reg)
  /-- `MOV:F.W @(d:8,R6),Rd` (R125) -/
  | movFLoadW (x : Byte) (d : Reg)
  /-- `MOV:F.B Rs,@(d:8,R6)` (R126) -/
  | movFStoreB (s : Reg) (x : Byte)
  /-- `MOV:F.W Rs,@(d:8,R6)` (R126) -/
  | movFStoreW (s : Reg) (x : Byte)
  /-- `CMP:E.B #xx:8,Rd` (R165) -/
  | cmpE (v : Byte) (d : Reg)
  /-- `CMP:I.W #xx:16,Rd` (R166) -/
  | cmpI (v : Word) (d : Reg)
  /-- `BRA d:8` (R226, R228) -/
  | bra8 (x : Byte)
  /-- `BRN d:8` (R226, R229) -/
  | brn8 (x : Byte)
  /-- `BHI d:8` (R226, R230) -/
  | bhi8 (x : Byte)
  /-- `BLS d:8` (R226, R231) -/
  | bls8 (x : Byte)
  /-- `BCC d:8` (R226, R232) -/
  | bcc8 (x : Byte)
  /-- `BCS d:8` (R226, R233) -/
  | bcs8 (x : Byte)
  /-- `BNE d:8` (R226, R234) -/
  | bne8 (x : Byte)
  /-- `BEQ d:8` (R226, R235) -/
  | beq8 (x : Byte)
  /-- `BVC d:8` (R226, R236) -/
  | bvc8 (x : Byte)
  /-- `BVS d:8` (R226, R237) -/
  | bvs8 (x : Byte)
  /-- `BPL d:8` (R226, R238) -/
  | bpl8 (x : Byte)
  /-- `BMI d:8` (R226, R239) -/
  | bmi8 (x : Byte)
  /-- `BGE d:8` (R226, R240) -/
  | bge8 (x : Byte)
  /-- `BLT d:8` (R226, R241) -/
  | blt8 (x : Byte)
  /-- `BGT d:8` (R226, R242) -/
  | bgt8 (x : Byte)
  /-- `BLE d:8` (R226, R243) -/
  | ble8 (x : Byte)
  /-- `BRA d:16` (R227, R228) -/
  | bra16 (x : Word)
  /-- `BRN d:16` (R227, R229) -/
  | brn16 (x : Word)
  /-- `BHI d:16` (R227, R230) -/
  | bhi16 (x : Word)
  /-- `BLS d:16` (R227, R231) -/
  | bls16 (x : Word)
  /-- `BCC d:16` (R227, R232) -/
  | bcc16 (x : Word)
  /-- `BCS d:16` (R227, R233) -/
  | bcs16 (x : Word)
  /-- `BNE d:16` (R227, R234) -/
  | bne16 (x : Word)
  /-- `BEQ d:16` (R227, R235) -/
  | beq16 (x : Word)
  /-- `BVC d:16` (R227, R236) -/
  | bvc16 (x : Word)
  /-- `BVS d:16` (R227, R237) -/
  | bvs16 (x : Word)
  /-- `BPL d:16` (R227, R238) -/
  | bpl16 (x : Word)
  /-- `BMI d:16` (R227, R239) -/
  | bmi16 (x : Word)
  /-- `BGE d:16` (R227, R240) -/
  | bge16 (x : Word)
  /-- `BLT d:16` (R227, R241) -/
  | blt16 (x : Word)
  /-- `BGT d:16` (R227, R242) -/
  | bgt16 (x : Word)
  /-- `BLE d:16` (R227, R243) -/
  | ble16 (x : Word)
  /-- `JMP @Rn` (R244) -/
  | jmpInd (n : Reg)
  /-- `JMP @aa:16` (R244) -/
  | jmpAbs (a : Word)
  /-- `JMP @(d:8,Rn)` (R244) -/
  | jmpDisp8 (n : Reg) (x : Byte)
  /-- `JMP @(d:16,Rn)` (R244) -/
  | jmpDisp16 (n : Reg) (x : Word)
  /-- `BSR d:8` (R246) -/
  | bsr8 (x : Byte)
  /-- `BSR d:16` (R246) -/
  | bsr16 (x : Word)
  /-- `JSR @Rn` (R247) -/
  | jsrInd (n : Reg)
  /-- `JSR @aa:16` (R247) -/
  | jsrAbs (a : Word)
  /-- `JSR @(d:8,Rn)` (R247) -/
  | jsrDisp8 (n : Reg) (x : Byte)
  /-- `JSR @(d:16,Rn)` (R247) -/
  | jsrDisp16 (n : Reg) (x : Word)
  /-- `RTS` (R249) -/
  | rts
  /-- `RTD #xx:8` (R251) -/
  | rtd8 (v : Byte)
  /-- `RTD #xx:16` (R251) -/
  | rtd16 (v : Word)
  /-- `SCB/F Rn,disp` (R253) -/
  | scbF (n : Reg) (x : Byte)
  /-- `SCB/NE Rn,disp` (R254) -/
  | scbNe (n : Reg) (x : Byte)
  /-- `SCB/EQ Rn,disp` (R255) -/
  | scbEq (n : Reg) (x : Byte)
  /-- `PJMP @aa:24` (R245) -/
  | pjmpAbs (p : Byte) (a : Word)
  /-- `PJMP @Rn` (R245) -/
  | pjmpInd (n : Reg)
  /-- `PJSR @aa:24` (R248) -/
  | pjsrAbs (p : Byte) (a : Word)
  /-- `PJSR @Rn` (R248) -/
  | pjsrInd (n : Reg)
  /-- `PRTS` (R250) -/
  | prts
  /-- `PRTD #xx:8` (R252) -/
  | prtd8 (v : Byte)
  /-- `PRTD #xx:16` (R252) -/
  | prtd16 (v : Word)
  /-- `TRAPA #xx` (R265) -/
  | trapa (v : BitVec 4)
  /-- `TRAP/VS` (R266) -/
  | trapVs
  /-- `RTE` (R267) -/
  | rte
  /-- `LINK FP,#xx:8` (R268) -/
  | link8 (v : Byte)
  /-- `LINK FP,#xx:16` (R268) -/
  | link16 (v : Word)
  /-- `UNLK FP` (R269) -/
  | unlk
  /-- `SLEEP` (R270) -/
  | sleep
  /-- `LDC.<S> <EAs>,CR` (R271) -/
  | ldc (sz : Size) (src : SrcEa) (cr : CtlReg)
  /-- `STC.<S> CR,<EAd>` (R272) -/
  | stc (sz : Size) (cr : CtlReg) (dst : DstEa)
  /-- `ANDC.<S> #xx,CR` (R273) -/
  | andc (imm : ImmEa) (cr : CtlReg)
  /-- `ORC.<S> #xx,CR` (R274) -/
  | orc (imm : ImmEa) (cr : CtlReg)
  /-- `XORC.<S> #xx,CR` (R275) -/
  | xorc (imm : ImmEa) (cr : CtlReg)
  /-- `NOP` (R276) -/
  | nop
deriving DecidableEq, Repr

end Sys2Proof
end

