-- ==== Sys2Proof/Machine/Operands.lean ====
section
/-! DEFINITION. The operand forms: effective addresses with their side effects, locators, and the reading and writing
of operands (00_scope.md R12, 20_memory.md R70). -/

namespace Sys2Proof.Machine

/-- An 8-bit displacement or immediate, sign-extended to 16 bits (30_encoding.md R87, D6, D7). -/
def sext16 (b : Byte) : Word := b.signExtend 16

/-- `k`, the step of `@-Rn` and `@Rn+`: the operand size in bytes (20_memory.md R70, D32). -/
def step16 : Size → Word
  | .byte => 1
  | .word => 2

/-- The value of an immediate EA field at the operand size (00_scope.md R12). -/
def immValue (sz : Size) : ImmEa → BitVec sz.bits
  | .imm8 v => v.setWidth sz.bits
  | .imm16 v => v.setWidth sz.bits

/-! ## Effective addresses -/

/-- The base register a memory mode changes: that of `@-Rn` and `@Rn+` (R70). -/
def autoBase : MemEa → Option Reg
  | .preDec r => some r
  | .postInc r => some r
  | _ => none

/-- The physical address of a memory operand, from the state before the side effect (R70). -/
def memAddr (sz : Size) (m : MemEa) (s : State) : Addr :=
  match m with
  | .ind r => phys s (.dataReg r) (s.reg r)
  | .disp8 r d => phys s (.dataReg r) (s.reg r + sext16 d)
  | .disp16 r d => phys s (.dataReg r) (s.reg r + d)
  | .preDec r => phys s (.dataReg r) (s.reg r - step16 sz)
  | .postInc r => phys s (.dataReg r) (s.reg r)
  | .abs8 a => phys s .abs8 (s.br ++ a)
  | .abs16 a => phys s .abs16 a

/-- The register side effect of a memory mode, once per instruction (00_scope.md R12, R70). -/
def memEffect (sz : Size) (m : MemEa) (s : State) : State :=
  match m with
  | .preDec r => s.setReg r (s.reg r - step16 sz)
  | .postInc r => s.setReg r (s.reg r + step16 sz)
  | _ => s

/-- The two corner cases R70 refuses: a byte operand `@-R7` or `@R7+` (U6), and a register operand `other` of the
instruction that is the auto-modified base (U7). -/
def eaRefusal (sz : Size) (other : Option Reg) (m : MemEa) : Option Refusal :=
  match autoBase m with
  | none => none
  | some r =>
    if sz = .byte ∧ r = Config.spIndex then some .byteThroughStackPointer
    else if other = some r then some .registerIsAutoBase
    else none

/-- A locator (00_scope.md R12), with the base register its side effect has written. -/
inductive Loc where
  | reg (r : Reg)
  | mem (a : Addr) (auto : Option Reg)
deriving DecidableEq, Repr

/-- `DecodeEA()` of a memory operand: its locator and the state after the side effect (R12, R70). `other` is the
register operand of the OP field, if there is one. -/
def locateMem (sz : Size) (other : Option Reg) (m : MemEa) (s : State) : Except Stop (Loc × State) :=
  match eaRefusal sz other m with
  | some r => refuse r
  | none => .ok (.mem (memAddr sz m s) (autoBase m), memEffect sz m s)

/-- `DecodeEA()` of a destination (R12). -/
def locateDst (sz : Size) (other : Option Reg) (dst : DstEa) (s : State) : Except Stop (Loc × State) :=
  match dst with
  | .reg r => .ok (.reg r, s)
  | .mem m => locateMem sz other m s

/-! ## Reading and writing operands -/

/-- A memory operand of size `sz`: one byte, or one word at an even address (20_memory.md R55, R58). -/
def State.readMem (sz : Size) (s : State) (auto : Option Reg) (a : Addr) : Except Stop (BitVec sz.bits) :=
  match sz with
  | .byte => s.readByte a
  | .word => s.readWord auto a

/-- Stores an operand of size `sz`, whatever the parity of the address. -/
def State.storeMem (sz : Size) (s : State) (a : Addr) (v : BitVec sz.bits) : State :=
  match sz, v with
  | .byte, v => s.storeByte a v
  | .word, v => s.storeWord a v

/-- Whether an operand of size `sz` may lie at an address (20_memory.md R57). -/
def aligned (sz : Size) (a : Addr) : Bool :=
  match sz with
  | .byte => true
  | .word => isEven a

/-- `ReadOp(L, n)` (R12). -/
def State.readOp (sz : Size) (s : State) : Loc → Except Stop (BitVec sz.bits)
  | .reg r => .ok (s.regOp sz r)
  | .mem a auto => s.readMem sz auto a

/-- The state after an operand is written, whatever the parity of its address. -/
def State.putOp (sz : Size) (s : State) (l : Loc) (v : BitVec sz.bits) : State :=
  match l with
  | .reg r => s.setRegOp sz r v
  | .mem a _ => s.storeMem sz a v

/-- `WriteOp(L, n, v)` (R12): AddressError for a word at an odd address. -/
def State.writeOp (sz : Size) (s : State) (l : Loc) (v : BitVec sz.bits) : Except Stop State :=
  match l with
  | .reg r => .ok (s.setRegOp sz r v)
  | .mem a auto => if aligned sz a then .ok (s.storeMem sz a v) else .error (.addressError auto)

/-! ## The skeletons the rules share -/

/-- `L <- DecodeEA(); ReadOp(L, n)` of a source operand (41_arithmetic.md R150): its value and the state after the
side effect. -/
def fetchSource (sz : Size) (other : Option Reg) (src : SrcEa) (s : State) : Except Stop (BitVec sz.bits × State) :=
  match src with
  | .reg r => .ok (s.regOp sz r, s)
  | .imm i => .ok (immValue sz i, s)
  | .mem m => do
    let (l, s) ← locateMem sz other m s
    let v ← s.readOp sz l
    pure (v, s)

/-- `L <- DecodeEA(); ReadOp(L, n)` of an operand that is written back: its value, its locator and the state after
the side effect (20_memory.md R58). -/
def fetchDest (sz : Size) (other : Option Reg) (dst : DstEa) (s : State) :
    Except Stop (BitVec sz.bits × Loc × State) := do
  let (l, s) ← locateDst sz other dst s
  let v ← s.readOp sz l
  pure (v, l, s)

/-- Reads a source operand, then does `k` with its value (R150). -/
def withSource (sz : Size) (src : SrcEa) (other : Option Reg) (s : State)
    (k : BitVec sz.bits → State → Except Stop State) : Outcome :=
  complete s do
    let (v, s1) ← fetchSource sz other src s
    k v s1

/-- Reads an operand, writes `f` of it back to the same place, then sets the flags to `g` (42_shift.md R190). The
state handed to `f` and `g` is the one after the side effect of the EA. -/
def modifyOp (sz : Size) (dst : DstEa) (other : Option Reg) (s : State)
    (f : State → BitVec sz.bits → BitVec sz.bits) (g : State → BitVec sz.bits → Flags) : Outcome :=
  complete s do
    let (v, l, s1) ← fetchDest sz other dst s
    let s2 ← s1.writeOp sz l (f s1 v)
    pure (s2.setFlags (g s1 v))

/-- Reads an operand and sets the flags to `g`; writes nothing else (41_arithmetic.md R169). -/
def testOp (sz : Size) (dst : DstEa) (other : Option Reg) (s : State) (g : State → BitVec sz.bits → Flags) : Outcome :=
  complete s do
    let (v, _, s1) ← fetchDest sz other dst s
    pure (s1.setFlags (g s1 v))

/-- Writes an operand without reading it, then sets the flags (20_memory.md R58). -/
def putDest (sz : Size) (dst : DstEa) (other : Option Reg) (s : State)
    (v : State → BitVec sz.bits) (g : State → Flags) : Outcome :=
  complete s do
    let (l, s1) ← locateDst sz other dst s
    let s2 ← s1.writeOp sz l (v s1)
    pure (s2.setFlags (g s1))

end Sys2Proof.Machine
end

