-- ==== Sys2Proof/Machine/Arithmetic.lean ====
section
/-! DEFINITION. The arithmetic instructions (41_arithmetic.md). -/

namespace Sys2Proof.Machine

/-! ## Shared operations -/

/-- `OP <EAs>,Rd` (R150): Rd gets `f a b`, the flags become `g a b`, where `b` is the source, `a` is Rd and the state
is the one after the side effect of the EA. -/
def aluRd (sz : Size) (src : SrcEa) (d : Reg) (s : State)
    (f : State → BitVec sz.bits → BitVec sz.bits → BitVec sz.bits)
    (g : State → BitVec sz.bits → BitVec sz.bits → Flags) : Outcome :=
  withSource sz src (some d) s fun b s1 =>
    .ok ((s1.setRegOp sz d (f s1 (s1.regOp sz d) b)).setFlags (g s1 (s1.regOp sz d) b))

/-- ADD:Q with the immediate `k` (R153): the immediate as an n-bit number is added. -/
def addQuick (sz : Size) (k : Int) (dst : DstEa) (s : State) : Outcome :=
  modifyOp sz dst none s (fun _ a => addWith a (BitVec.ofInt sz.bits k) false)
    (fun _ a => addFlags a (BitVec.ofInt sz.bits k) false)

/-- Whether a byte is two packed decimal digits (R156; the packing is GK25, PRESUMED, notes/assumptions/51.md). -/
def isDecimal (b : Byte) : Bool := decide (b.toNat / 16 ≤ 9 ∧ b.toNat % 16 ≤ 9)

/-- The number two packed decimal digits stand for (R156). -/
def ofDecimal (b : Byte) : Nat := 10 * (b.toNat / 16) + b.toNat % 16

/-- Two packed decimal digits of a number below 100 (R156). -/
def toDecimal (u : Nat) : Byte := BitVec.ofNat 8 (16 * (u / 10) + u % 10)

/-- The end of DADD and DSUB (R156, R160): the digits `u` to Rd, C, and Z under `Z_STICKY`; N and V are kept. -/
def putDecimal (d : Reg) (u : Nat) (c : Bool) (s : State) : State :=
  let r := toDecimal u
  (s.setRegOp .byte d r).setFlags { s.flags with z := stickyZ s.flags.z (r == 0), c := c }

/-- The product of MULXU to Rd, or to Rd and Rd+1 (R161). -/
def mulxu (sz : Size) (d : Reg) (b : BitVec sz.bits) (s : State) : Except Stop State :=
  match sz, b with
  | .byte, b =>
    let p : Word := (s.regOp .byte d).setWidth 16 * b.setWidth 16
    .ok ((s.setReg d p).setFlags (resultFlags p false false))
  | .word, b =>
    if d.val % 2 = 1 then refuse .oddPairRegister
    else
      let p : BitVec 32 := (s.reg (d + 1)).setWidth 32 * b.setWidth 32
      .ok (((s.setReg d (p.extractLsb' 16 16)).setReg (d + 1) (p.extractLsb' 0 16)).setFlags
        (resultFlags p false false))

/-- ZeroDivide (R162, 60_exceptions.md R303): Rd and the flags unchanged, the stacked PC the next instruction's. -/
def zeroDivide (s : State) : Except Stop State := raised (takeException Config.vecZeroDiv s.pc s)

/-- DIVXU.B (R162): 16 by 8 bits. On overflow Rd, N and Z are free values (U5; notes/assumptions/21.md). -/
def divxuByte (d : Reg) (b : Byte) (s : State) : Except Stop State :=
  let a := s.reg d
  if b = 0 then zeroDivide s
  else
    let q := a.toNat / b.toNat
    let m := a.toNat % b.toNat
    if 2 ^ 8 ≤ q then
      .ok (((s.setReg d (Config.freeWord s.draws)).setFlags
        { n := Config.freeBit (s.draws + 1), z := Config.freeBit (s.draws + 2), v := true, c := false }).addDraws 3)
    else
      .ok ((s.setReg d (BitVec.ofNat 8 m ++ BitVec.ofNat 8 q)).setFlags (resultFlags (BitVec.ofNat 8 q) false false))

/-- DIVXU.W (R162): 32 by 16 bits. On overflow Rd, Rd+1, N and Z are free values (U5; notes/assumptions/21.md). -/
def divxuWord (d : Reg) (b : Word) (s : State) : Except Stop State :=
  if d.val % 2 = 1 then refuse .oddPairRegister
  else
    let a : BitVec 32 := s.reg d ++ s.reg (d + 1)
    if b = 0 then zeroDivide s
    else
      let q := a.toNat / b.toNat
      let m := a.toNat % b.toNat
      if 2 ^ 16 ≤ q then
        .ok ((((s.setReg d (Config.freeWord s.draws)).setReg (d + 1) (Config.freeWord (s.draws + 1))).setFlags
          { n := Config.freeBit (s.draws + 2), z := Config.freeBit (s.draws + 3), v := true, c := false }).addDraws 4)
      else
        .ok (((s.setReg d (BitVec.ofNat 16 m)).setReg (d + 1) (BitVec.ofNat 16 q)).setFlags
          (resultFlags (BitVec.ofNat 16 q) false false))

/-- DIVXU of either size (R162). -/
def divxu (sz : Size) (d : Reg) (b : BitVec sz.bits) (s : State) : Except Stop State :=
  match sz, b with
  | .byte, b => divxuByte d b s
  | .word, b => divxuWord d b s

/-! ## Meanings -/

/-- R152. -/
def execAddG (sz : Size) (src : SrcEa) (d : Reg) (s : State) : Outcome :=
  aluRd sz src d s (fun _ a b => addWith a b false) (fun _ a b => addFlags a b false)

/-- R153, `#1`. -/
def execAddQ1 (sz : Size) (dst : DstEa) (s : State) : Outcome := addQuick sz 1 dst s

/-- R153, `#2`. -/
def execAddQ2 (sz : Size) (dst : DstEa) (s : State) : Outcome := addQuick sz 2 dst s

/-- R153, `#-1`. -/
def execAddQm1 (sz : Size) (dst : DstEa) (s : State) : Outcome := addQuick sz (-1) dst s

/-- R153, `#-2`. -/
def execAddQm2 (sz : Size) (dst : DstEa) (s : State) : Outcome := addQuick sz (-2) dst s

/-- R154: the source sign-extended to a word, all of Rd, no flags. -/
def execAdds (sz : Size) (src : SrcEa) (d : Reg) (s : State) : Outcome :=
  withSource sz src (some d) s fun b s1 => .ok (s1.setReg d (s1.reg d + b.signExtend 16))

/-- R155. -/
def execAddx (sz : Size) (src : SrcEa) (d : Reg) (s : State) : Outcome :=
  aluRd sz src d s (fun s1 a b => addWith a b s1.flags.c)
    (fun s1 a b => stickyFlags s1.flags (addFlags a b s1.flags.c))

/-- R156. -/
def execDadd (r d : Reg) (s : State) : Outcome :=
  let a := s.regOp .byte d
  let b := s.regOp .byte r
  if isDecimal a && isDecimal b then
    let t := ofDecimal a + ofDecimal b + s.flags.c.toNat
    .next (putDecimal d (t % 100) (decide (100 ≤ t)) s)
  else .refused .nonDecimalOperand

/-- R157. -/
def execSub (sz : Size) (src : SrcEa) (d : Reg) (s : State) : Outcome :=
  aluRd sz src d s (fun _ a b => subWith a b false) (fun _ a b => subFlags a b false)

/-- R158: the source sign-extended to a word, all of Rd, no flags. -/
def execSubs (sz : Size) (src : SrcEa) (d : Reg) (s : State) : Outcome :=
  withSource sz src (some d) s fun b s1 => .ok (s1.setReg d (s1.reg d - b.signExtend 16))

/-- R159. -/
def execSubx (sz : Size) (src : SrcEa) (d : Reg) (s : State) : Outcome :=
  aluRd sz src d s (fun s1 a b => subWith a b s1.flags.c)
    (fun s1 a b => stickyFlags s1.flags (subFlags a b s1.flags.c))

/-- R160. -/
def execDsub (r d : Reg) (s : State) : Outcome :=
  let a := s.regOp .byte d
  let b := s.regOp .byte r
  if isDecimal a && isDecimal b then
    let need := ofDecimal b + s.flags.c.toNat
    .next (putDecimal d ((ofDecimal a + 100 - need) % 100) (decide (ofDecimal a < need)) s)
  else .refused .nonDecimalOperand

/-- R161. -/
def execMulxu (sz : Size) (src : SrcEa) (d : Reg) (s : State) : Outcome := withSource sz src (some d) s (mulxu sz d)

/-- R162. -/
def execDivxu (sz : Size) (src : SrcEa) (d : Reg) (s : State) : Outcome := withSource sz src (some d) s (divxu sz d)

/-- R163. -/
def execCmpG (sz : Size) (src : SrcEa) (d : Reg) (s : State) : Outcome :=
  withSource sz src (some d) s fun b s1 => .ok (s1.setFlags (subFlags (s1.regOp sz d) b false))

/-- R164, `.B`. -/
def execCmpGImm8 (v : Byte) (m : MemEa) (s : State) : Outcome :=
  testOp .byte (.mem m) none s (fun _ a => subFlags a v false)

/-- R164, `.W`. -/
def execCmpGImm16 (v : Word) (m : MemEa) (s : State) : Outcome :=
  testOp .word (.mem m) none s (fun _ a => subFlags a v false)

/-- R165. -/
def execCmpE (v : Byte) (d : Reg) (s : State) : Outcome := .next (s.setFlags (subFlags (s.regOp .byte d) v false))

/-- R166. -/
def execCmpI (v : Word) (d : Reg) (s : State) : Outcome := .next (s.setFlags (subFlags (s.reg d) v false))

/-- R167. -/
def execExts (d : Reg) (s : State) : Outcome :=
  let r : Word := (s.regOp .byte d).signExtend 16
  .next ((s.setReg d r).setFlags (resultFlags r false false))

/-- R168: N is forced to 0, which is bit 15 of the result. -/
def execExtu (d : Reg) (s : State) : Outcome :=
  let r : Word := (s.regOp .byte d).setWidth 16
  .next ((s.setReg d r).setFlags { n := false, z := r == 0, v := false, c := false })

/-- R169. -/
def execTst (sz : Size) (dst : DstEa) (s : State) : Outcome :=
  testOp sz dst none s (fun _ v => resultFlags v false false)

/-- R170: V is 0, but for the most negative operand, where it is a free value (U12; notes/assumptions/23.md). -/
def execNeg (sz : Size) (dst : DstEa) (s : State) : Outcome :=
  complete s do
    let (v, l, s1) ← fetchDest sz none dst s
    let s2 ← s1.writeOp sz l (-v)
    pure ((s2.setFlags (resultFlags (-v) (if v = BitVec.intMin sz.bits then Config.freeBit s.draws else false)
      (v != 0))).addDraws 1)

/-- R171: written without being read. -/
def execClr (sz : Size) (dst : DstEa) (s : State) : Outcome :=
  putDest sz dst none s (fun _ => 0) (fun _ => { n := false, z := true, v := false, c := false })

/-- R172. -/
def execTas (dst : DstEa) (s : State) : Outcome :=
  modifyOp .byte dst none s (fun _ v => v ||| 0x80) (fun _ v => resultFlags v false false)

end Sys2Proof.Machine
end

