-- ==== Sys2Proof/Machine/Bits.lean ====
section
/-! DEFINITION. The bit manipulation instructions (44_bit.md). -/

namespace Sys2Proof.Machine

/-- A bit number as R215 takes it, from the OP byte or from bits 3 to 0 of a register. -/
def bitOfReg (s : State) (r : Reg) : Nat := ((s.reg r).extractLsb' 0 4).toNat

/-- R215: `DecodeEA()`, the bit number, the refusal of 8 to 15 on a byte (U2), the read, and then what `w` writes;
Z is the inverse of the selected bit before the write, the other flags stay. -/
def bitOp (sz : Size) (dst : DstEa) (other : Option Reg) (k : State → Nat) (s : State)
    (w : Loc → Nat → BitVec sz.bits → State → Except Stop State) : Outcome :=
  complete s do
    let (l, s1) ← locateDst sz other dst s
    if sz = .byte ∧ 8 ≤ k s1 then refuse .bitNumberOnByte
    else do
      let v ← s1.readOp sz l
      let s2 ← w l (k s1) v s1
      pure (s2.setFlags { s1.flags with z := !v.getLsbD (k s1) })

/-- The operand with bit `k` alone. -/
def oneBit (n k : Nat) : BitVec n := 1#n <<< k

/-- BSET writes 1 to the bit (R216). -/
def setBit (sz : Size) (l : Loc) (k : Nat) (v : BitVec sz.bits) (s : State) : Except Stop State :=
  s.writeOp sz l (v ||| oneBit sz.bits k)

/-- BCLR writes 0 to the bit (R217). -/
def clearBit (sz : Size) (l : Loc) (k : Nat) (v : BitVec sz.bits) (s : State) : Except Stop State :=
  s.writeOp sz l (v &&& ~~~oneBit sz.bits k)

/-- BNOT inverts the bit (R219). -/
def invertBit (sz : Size) (l : Loc) (k : Nat) (v : BitVec sz.bits) (s : State) : Except Stop State :=
  s.writeOp sz l (v ^^^ oneBit sz.bits k)

/-- BTST writes nothing (R218). -/
def keepBit (sz : Size) (_ : Loc) (_ : Nat) (_ : BitVec sz.bits) (s : State) : Except Stop State := .ok s

/-- R216, `#xx`. -/
def execBsetImm (sz : Size) (k : BitVec 4) (dst : DstEa) (s : State) : Outcome :=
  bitOp sz dst none (fun _ => k.toNat) s (setBit sz)

/-- R216, `Rs`. -/
def execBsetReg (sz : Size) (r : Reg) (dst : DstEa) (s : State) : Outcome :=
  bitOp sz dst (some r) (fun s1 => bitOfReg s1 r) s (setBit sz)

/-- R217, `#xx`. -/
def execBclrImm (sz : Size) (k : BitVec 4) (dst : DstEa) (s : State) : Outcome :=
  bitOp sz dst none (fun _ => k.toNat) s (clearBit sz)

/-- R217, `Rs`. -/
def execBclrReg (sz : Size) (r : Reg) (dst : DstEa) (s : State) : Outcome :=
  bitOp sz dst (some r) (fun s1 => bitOfReg s1 r) s (clearBit sz)

/-- R219, `#xx`. -/
def execBnotImm (sz : Size) (k : BitVec 4) (dst : DstEa) (s : State) : Outcome :=
  bitOp sz dst none (fun _ => k.toNat) s (invertBit sz)

/-- R219, `Rs`. -/
def execBnotReg (sz : Size) (r : Reg) (dst : DstEa) (s : State) : Outcome :=
  bitOp sz dst (some r) (fun s1 => bitOfReg s1 r) s (invertBit sz)

/-- R218, `#xx`. -/
def execBtstImm (sz : Size) (k : BitVec 4) (dst : DstEa) (s : State) : Outcome :=
  bitOp sz dst none (fun _ => k.toNat) s (keepBit sz)

/-- R218, `Rs`. -/
def execBtstReg (sz : Size) (r : Reg) (dst : DstEa) (s : State) : Outcome :=
  bitOp sz dst (some r) (fun s1 => bitOfReg s1 r) s (keepBit sz)

end Sys2Proof.Machine
end

