-- ==== Sys2Proof/Machine/Branch.lean ====
section
/-! DEFINITION. The branching instructions (45_branch.md). PC in the state is the address of the next instruction
(10_state.md R25); no flag changes. -/

namespace Sys2Proof.Machine

/-! ## Shared operations -/

/-- `PC + disp`, modulo 2^16 (R226, R227, 10_state.md R26). -/
def branchTo (s : State) (x : Word) : State := s.setPc (s.pc + x)

/-- `Bcc d:8` (R226). -/
def branch8 (c : Cond) (x : Byte) (s : State) : Outcome :=
  .next (if condHolds s.flags c then branchTo s (sext16 x) else s)

/-- `Bcc d:16` (R227). -/
def branch16 (c : Cond) (x : Word) (s : State) : Outcome :=
  .next (if condHolds s.flags c then branchTo s x else s)

/-- A call: PC is pushed, then becomes the target, which was computed before the push (R246, R247). -/
def callTo (t : Word) (s : State) : Outcome :=
  complete s do
    let s1 ← s.push16 s.pc
    pure (s1.setPc t)

/-- A page call: PC and then CP are pushed; CP and PC get the target (R248). -/
def pageCallTo (p : Byte) (t : Word) (s : State) : Outcome :=
  complete s do
    let s1 ← s.push16 s.pc
    let s2 ← s1.pushCp
    pure ((s2.setCp p).setPc t)

/-- A return: PC is popped, then `imm` is added to SP (R249, R251). -/
def returnDrop (imm : Word) (s : State) : Except Stop State := do
  let (pc, s1) ← s.pop16
  pure ((s1.setPc pc).setSp ((s1.setPc pc).sp + imm))

/-- A page return: CP and then PC are popped, then `imm` is added to SP (R250, R252). -/
def pageReturnDrop (imm : Word) (s : State) : Except Stop State := do
  let (w, s1) ← s.pop16
  returnDrop imm (s1.setCp (w.extractLsb' 0 8))

/-- The refusal of the page instructions in minimum mode (R245, U17). -/
def inMaximumMode (s : State) (k : Outcome) : Outcome :=
  match s.mode with
  | .min => .refused .pageInstructionInMinimumMode
  | .max => k

/-- The page and offset in `R[n]` and `R[n+1]`, refused for R7 (R245, R248). -/
def pageTarget (n : Reg) (s : State) (k : Byte → Word → Outcome) : Outcome :=
  if n = 7 then .refused .pageTargetInR7 else k ((s.reg n).extractLsb' 0 8) (s.reg (n + 1))

/-- The common operation of the three SCB instructions (R253); `cond` is their own condition. -/
def countAndBranch (cond : Bool) (n : Reg) (x : Byte) (s : State) : Outcome :=
  .next (
    if cond then s
    else
      let s1 := s.setReg n (s.reg n - 1)
      if s.reg n - 1 = 0xFFFF then s1 else branchTo s1 (sext16 x))

/-! ## Meanings -/

/-- R226, R228. -/
def execBra8 (x : Byte) (s : State) : Outcome := branch8 .bra x s

/-- R226, R229. -/
def execBrn8 (x : Byte) (s : State) : Outcome := branch8 .brn x s

/-- R226, R230. -/
def execBhi8 (x : Byte) (s : State) : Outcome := branch8 .bhi x s

/-- R226, R231. -/
def execBls8 (x : Byte) (s : State) : Outcome := branch8 .bls x s

/-- R226, R232. -/
def execBcc8 (x : Byte) (s : State) : Outcome := branch8 .bcc x s

/-- R226, R233. -/
def execBcs8 (x : Byte) (s : State) : Outcome := branch8 .bcs x s

/-- R226, R234. -/
def execBne8 (x : Byte) (s : State) : Outcome := branch8 .bne x s

/-- R226, R235. -/
def execBeq8 (x : Byte) (s : State) : Outcome := branch8 .beq x s

/-- R226, R236. -/
def execBvc8 (x : Byte) (s : State) : Outcome := branch8 .bvc x s

/-- R226, R237. -/
def execBvs8 (x : Byte) (s : State) : Outcome := branch8 .bvs x s

/-- R226, R238. -/
def execBpl8 (x : Byte) (s : State) : Outcome := branch8 .bpl x s

/-- R226, R239. -/
def execBmi8 (x : Byte) (s : State) : Outcome := branch8 .bmi x s

/-- R226, R240. -/
def execBge8 (x : Byte) (s : State) : Outcome := branch8 .bge x s

/-- R226, R241. -/
def execBlt8 (x : Byte) (s : State) : Outcome := branch8 .blt x s

/-- R226, R242. -/
def execBgt8 (x : Byte) (s : State) : Outcome := branch8 .bgt x s

/-- R226, R243. -/
def execBle8 (x : Byte) (s : State) : Outcome := branch8 .ble x s

/-- R227, R228. -/
def execBra16 (x : Word) (s : State) : Outcome := branch16 .bra x s

/-- R227, R229. -/
def execBrn16 (x : Word) (s : State) : Outcome := branch16 .brn x s

/-- R227, R230. -/
def execBhi16 (x : Word) (s : State) : Outcome := branch16 .bhi x s

/-- R227, R231. -/
def execBls16 (x : Word) (s : State) : Outcome := branch16 .bls x s

/-- R227, R232. -/
def execBcc16 (x : Word) (s : State) : Outcome := branch16 .bcc x s

/-- R227, R233. -/
def execBcs16 (x : Word) (s : State) : Outcome := branch16 .bcs x s

/-- R227, R234. -/
def execBne16 (x : Word) (s : State) : Outcome := branch16 .bne x s

/-- R227, R235. -/
def execBeq16 (x : Word) (s : State) : Outcome := branch16 .beq x s

/-- R227, R236. -/
def execBvc16 (x : Word) (s : State) : Outcome := branch16 .bvc x s

/-- R227, R237. -/
def execBvs16 (x : Word) (s : State) : Outcome := branch16 .bvs x s

/-- R227, R238. -/
def execBpl16 (x : Word) (s : State) : Outcome := branch16 .bpl x s

/-- R227, R239. -/
def execBmi16 (x : Word) (s : State) : Outcome := branch16 .bmi x s

/-- R227, R240. -/
def execBge16 (x : Word) (s : State) : Outcome := branch16 .bge x s

/-- R227, R241. -/
def execBlt16 (x : Word) (s : State) : Outcome := branch16 .blt x s

/-- R227, R242. -/
def execBgt16 (x : Word) (s : State) : Outcome := branch16 .bgt x s

/-- R227, R243. -/
def execBle16 (x : Word) (s : State) : Outcome := branch16 .ble x s

/-- R244, `@Rn`. -/
def execJmpInd (n : Reg) (s : State) : Outcome := .next (s.setPc (s.reg n))

/-- R244, `@aa:16`. -/
def execJmpAbs (a : Word) (s : State) : Outcome := .next (s.setPc a)

/-- R244, `@(d:8,Rn)`. -/
def execJmpDisp8 (n : Reg) (x : Byte) (s : State) : Outcome := .next (s.setPc (s.reg n + sext16 x))

/-- R244, `@(d:16,Rn)`. -/
def execJmpDisp16 (n : Reg) (x : Word) (s : State) : Outcome := .next (s.setPc (s.reg n + x))

/-- R246, d:8. -/
def execBsr8 (x : Byte) (s : State) : Outcome := callTo (s.pc + sext16 x) s

/-- R246, d:16. -/
def execBsr16 (x : Word) (s : State) : Outcome := callTo (s.pc + x) s

/-- R247, `@Rn`. -/
def execJsrInd (n : Reg) (s : State) : Outcome := callTo (s.reg n) s

/-- R247, `@aa:16`. -/
def execJsrAbs (a : Word) (s : State) : Outcome := callTo a s

/-- R247, `@(d:8,Rn)`. -/
def execJsrDisp8 (n : Reg) (x : Byte) (s : State) : Outcome := callTo (s.reg n + sext16 x) s

/-- R247, `@(d:16,Rn)`. -/
def execJsrDisp16 (n : Reg) (x : Word) (s : State) : Outcome := callTo (s.reg n + x) s

/-- R249. -/
def execRts (s : State) : Outcome := complete s (returnDrop 0 s)

/-- R251, `#xx:8`. -/
def execRtd8 (v : Byte) (s : State) : Outcome := complete s (returnDrop (sext16 v) s)

/-- R251, `#xx:16`. -/
def execRtd16 (v : Word) (s : State) : Outcome := complete s (returnDrop v s)

/-- R253: the condition is "False". -/
def execScbF (n : Reg) (x : Byte) (s : State) : Outcome := countAndBranch false n x s

/-- R254: the condition is Z = 0. -/
def execScbNe (n : Reg) (x : Byte) (s : State) : Outcome := countAndBranch (!s.flags.z) n x s

/-- R255: the condition is Z = 1. -/
def execScbEq (n : Reg) (x : Byte) (s : State) : Outcome := countAndBranch s.flags.z n x s

/-- R245, `@aa:24`. -/
def execPjmpAbs (p : Byte) (a : Word) (s : State) : Outcome := inMaximumMode s (.next ((s.setCp p).setPc a))

/-- R245, `@Rn`. -/
def execPjmpInd (n : Reg) (s : State) : Outcome :=
  inMaximumMode s (pageTarget n s fun p a => .next ((s.setCp p).setPc a))

/-- R248, `@aa:24`. -/
def execPjsrAbs (p : Byte) (a : Word) (s : State) : Outcome := inMaximumMode s (pageCallTo p a s)

/-- R248, `@Rn`. -/
def execPjsrInd (n : Reg) (s : State) : Outcome :=
  inMaximumMode s (pageTarget n s fun p a => pageCallTo p a s)

/-- R250. -/
def execPrts (s : State) : Outcome := inMaximumMode s (complete s (pageReturnDrop 0 s))

/-- R252, `#xx:8`. -/
def execPrtd8 (v : Byte) (s : State) : Outcome := inMaximumMode s (complete s (pageReturnDrop (sext16 v) s))

/-- R252, `#xx:16`. -/
def execPrtd16 (v : Word) (s : State) : Outcome := inMaximumMode s (complete s (pageReturnDrop v s))

end Sys2Proof.Machine
end

