-- ==== Sys2Proof/Machine/DataTransfer.lean ====
section
/-! DEFINITION. The data transfer instructions (40_data_transfer.md). -/

namespace Sys2Proof.Machine

/-! ## Shared operations -/

/-- The end of every load: Rd gets the value, the flags are `LogicFlags` of it (R120). -/
def loadReg (sz : Size) (d : Reg) (v : BitVec sz.bits) (s : State) : Except Stop State :=
  .ok ((s.setRegOp sz d v).setFlags (logicFlags v s.flags))

/-- A load from a physical address (R125, R128). -/
def loadFrom (sz : Size) (d : Reg) (a : Addr) (s : State) : Outcome :=
  complete s do
    let v ← s.readMem sz none a
    loadReg sz d v s

/-- A store of a value to a physical address, with `LogicFlags` (R126, R129). -/
def storeTo (sz : Size) (r : Reg) (a : Addr) (s : State) : Outcome :=
  complete s do
    let s1 ← s.writeOp sz (.mem a none) (s.regOp sz r)
    pure (s1.setFlags (logicFlags (s.regOp sz r) s.flags))

/-- `@(d:8,R6)` of MOV:F (R125, R126). -/
def frameAddr (s : State) (x : Byte) : Addr := phys s (.dataReg Config.fpIndex) (s.reg Config.fpIndex + sext16 x)

/-- `@aa:8` of MOV:L and MOV:S (R128, R129). -/
def shortAddr (s : State) (a : Byte) : Addr := phys s .abs8 (s.br ++ a)

/-- The registers of a list, in ascending order, R7 left out (R130). -/
def listedRegs (list : Byte) : List Reg := ([0, 1, 2, 3, 4, 5, 6] : List Reg).filter fun r => list.getLsbD r.val

/-- Pops each register in turn (R130). -/
def popAll : List Reg → State → Except Stop State
  | [], s => .ok s
  | r :: rest, s => do
    let (v, s) ← s.pop16
    popAll rest (s.setReg r v)

/-- Pushes each register in turn (R131). -/
def pushAll : List Reg → State → Except Stop State
  | [], s => .ok s
  | r :: rest, s => do
    let s ← s.push16 (s.reg r)
    pushAll rest s

/-! ## Meanings -/

/-- R121. -/
def execMovGLoad (sz : Size) (src : SrcEa) (d : Reg) (s : State) : Outcome :=
  withSource sz src (some d) s (loadReg sz d)

/-- R122. -/
def execMovGStore (sz : Size) (r : Reg) (m : MemEa) (s : State) : Outcome :=
  putDest sz (.mem m) (some r) s (fun s1 => s1.regOp sz r) (fun s1 => logicFlags (s1.regOp sz r) s1.flags)

/-- R123, `#xx:8`: a word destination gets the immediate sign-extended (D7). -/
def execMovGImm8 (sz : Size) (v : Byte) (m : MemEa) (s : State) : Outcome :=
  putDest sz (.mem m) none s (fun _ => v.signExtend sz.bits)
    (fun s1 => logicFlags (v.signExtend sz.bits) s1.flags)

/-- R123, `#xx:16`. -/
def execMovGImm16 (v : Word) (m : MemEa) (s : State) : Outcome :=
  putDest .word (.mem m) none s (fun _ => v) (fun s1 => logicFlags v s1.flags)

/-- R124. -/
def execMovE (v : Byte) (d : Reg) (s : State) : Outcome := complete s (loadReg .byte d v s)

/-- R127. -/
def execMovI (v : Word) (d : Reg) (s : State) : Outcome := complete s (loadReg .word d v s)

/-- R125, `.B`. -/
def execMovFLoadB (x : Byte) (d : Reg) (s : State) : Outcome := loadFrom .byte d (frameAddr s x) s

/-- R125, `.W`. -/
def execMovFLoadW (x : Byte) (d : Reg) (s : State) : Outcome := loadFrom .word d (frameAddr s x) s

/-- R126, `.B`. -/
def execMovFStoreB (r : Reg) (x : Byte) (s : State) : Outcome := storeTo .byte r (frameAddr s x) s

/-- R126, `.W`. -/
def execMovFStoreW (r : Reg) (x : Byte) (s : State) : Outcome := storeTo .word r (frameAddr s x) s

/-- R128, `.B`. -/
def execMovLB (a : Byte) (d : Reg) (s : State) : Outcome := loadFrom .byte d (shortAddr s a) s

/-- R128, `.W`. -/
def execMovLW (a : Byte) (d : Reg) (s : State) : Outcome := loadFrom .word d (shortAddr s a) s

/-- R129, `.B`. -/
def execMovSB (r : Reg) (a : Byte) (s : State) : Outcome := storeTo .byte r (shortAddr s a) s

/-- R129, `.W`. -/
def execMovSW (r : Reg) (a : Byte) (s : State) : Outcome := storeTo .word r (shortAddr s a) s

/-- R130. -/
def execLdm (list : Byte) (s : State) : Outcome :=
  if list.getLsbD 7 then .refused .stackPointerInList else complete s (popAll (listedRegs list) s)

/-- R131: the highest-numbered register first. -/
def execStm (list : Byte) (s : State) : Outcome :=
  if list.getLsbD 7 then .refused .stackPointerInList else complete s (pushAll (listedRegs list).reverse s)

/-- R132. -/
def execXch (r d : Reg) (s : State) : Outcome := .next ((s.setReg d (s.reg r)).setReg r (s.reg d))

/-- R133: N and Z are free values where the byte reading and the word reading differ (U9;
notes/assumptions/22.md). -/
def execSwap (d : Reg) (s : State) : Outcome :=
  let old := s.reg d
  let r : Word := old.extractLsb' 0 8 ++ old.extractLsb' 8 8
  let n := if r.getLsbD 7 = r.getLsbD 15 then r.getLsbD 7 else Config.freeBit s.draws
  let zw := r == 0
  let zb := r.extractLsb' 0 8 == 0
  let z := if zw = zb then zw else Config.freeBit (s.draws + 1)
  .next (((s.setReg d r).setFlags { n := n, z := z, v := false, c := s.flags.c }).addDraws 2)

/-- R134: an ordinary byte store (20_memory.md R69); no flag changes. -/
def execMovtpe (r : Reg) (m : MemEa) (s : State) : Outcome :=
  putDest .byte (.mem m) (some r) s (fun s1 => s1.regOp .byte r) (fun s1 => s1.flags)

/-- R135: an ordinary byte load (20_memory.md R69); no flag changes. -/
def execMovfpe (m : MemEa) (d : Reg) (s : State) : Outcome :=
  withSource .byte (.mem m) (some d) s fun v s1 => .ok (s1.setRegOp .byte d v)

end Sys2Proof.Machine
end

