-- ==== Sys2Proof/Machine/Logic.lean ====
section
/-! DEFINITION. The logic instructions (43_logic.md). -/

namespace Sys2Proof.Machine

/-- The skeleton of AND, OR, XOR (R205, R206). -/
def logicRd (sz : Size) (src : SrcEa) (d : Reg) (s : State)
    (f : BitVec sz.bits → BitVec sz.bits → BitVec sz.bits) : Outcome :=
  withSource sz src (some d) s fun b s1 =>
    .ok ((s1.setRegOp sz d (f (s1.regOp sz d) b)).setFlags (logicFlags (f (s1.regOp sz d) b) s1.flags))

/-- R206. -/
def execAnd (sz : Size) (src : SrcEa) (d : Reg) (s : State) : Outcome := logicRd sz src d s fun a b => a &&& b

/-- R207. -/
def execOr (sz : Size) (src : SrcEa) (d : Reg) (s : State) : Outcome := logicRd sz src d s fun a b => a ||| b

/-- R208. -/
def execXor (sz : Size) (src : SrcEa) (d : Reg) (s : State) : Outcome := logicRd sz src d s fun a b => a ^^^ b

/-- R209. -/
def execNot (sz : Size) (dst : DstEa) (s : State) : Outcome :=
  modifyOp sz dst none s (fun _ v => ~~~v) (fun s1 v => logicFlags (~~~v) s1.flags)

end Sys2Proof.Machine
end

