-- ==== Sys2Proof/Machine/Shift.lean ====
section
/-! DEFINITION. The shift and rotate instructions (42_shift.md), each by one bit. -/

namespace Sys2Proof.Machine

/-- The skeleton of R190: the result `f v C`, N and Z from it, V from `vout`, C from `cout`. -/
def shiftOp (sz : Size) (dst : DstEa) (s : State) (f : BitVec sz.bits → Bool → BitVec sz.bits)
    (vout cout : BitVec sz.bits → Bool) : Outcome :=
  modifyOp sz dst none s (fun s1 v => f v s1.flags.c)
    (fun s1 v => resultFlags (f v s1.flags.c) (vout v) (cout v))

/-- The bit that leaves on the left. -/
def topBit {n : Nat} (v : BitVec n) : Bool := v.msb

/-- The bit that leaves on the right. -/
def lowBit {n : Nat} (v : BitVec n) : Bool := v.getLsbD 0

/-- V of every shift but SHAL. -/
def noOverflow {n : Nat} (_ : BitVec n) : Bool := false

/-- V of SHAL: the sign bit changes (R191). -/
def signChanges {n : Nat} (v : BitVec n) : Bool := v.getMsbD 0 != v.getMsbD 1

/-- A bit as an n-bit number. -/
def bitNumber (n : Nat) (c : Bool) : BitVec n := (BitVec.ofBool c).setWidth n

/-- `v[n-2:0] : C` (R197). -/
def rotateThroughLeft {n : Nat} (v : BitVec n) (c : Bool) : BitVec n := (v <<< 1) ||| bitNumber n c

/-- `C : v[n-1:1]` (R198). -/
def rotateThroughRight {n : Nat} (v : BitVec n) (c : Bool) : BitVec n := (v >>> 1) ||| (bitNumber n c <<< (n - 1))

/-- R191. -/
def execShal (sz : Size) (dst : DstEa) (s : State) : Outcome :=
  shiftOp sz dst s (fun v _ => v <<< 1) signChanges topBit

/-- R192. -/
def execShar (sz : Size) (dst : DstEa) (s : State) : Outcome :=
  shiftOp sz dst s (fun v _ => v.sshiftRight 1) noOverflow lowBit

/-- R193. -/
def execShll (sz : Size) (dst : DstEa) (s : State) : Outcome :=
  shiftOp sz dst s (fun v _ => v <<< 1) noOverflow topBit

/-- R194. -/
def execShlr (sz : Size) (dst : DstEa) (s : State) : Outcome :=
  shiftOp sz dst s (fun v _ => v >>> 1) noOverflow lowBit

/-- R195. -/
def execRotl (sz : Size) (dst : DstEa) (s : State) : Outcome :=
  shiftOp sz dst s (fun v _ => v.rotateLeft 1) noOverflow topBit

/-- R196. -/
def execRotr (sz : Size) (dst : DstEa) (s : State) : Outcome :=
  shiftOp sz dst s (fun v _ => v.rotateRight 1) noOverflow lowBit

/-- R197. -/
def execRotxl (sz : Size) (dst : DstEa) (s : State) : Outcome :=
  shiftOp sz dst s rotateThroughLeft noOverflow topBit

/-- R198. -/
def execRotxr (sz : Size) (dst : DstEa) (s : State) : Outcome :=
  shiftOp sz dst s rotateThroughRight noOverflow lowBit

end Sys2Proof.Machine
end

