-- ==== Sys2Proof/WellFormed.lean ====
section
/-! DEFINITION. Which instruction terms are encodable: an immediate EA field has the width of the operand size
(30_encoding.md R82, R83). Everything else is carried by the types of the operands. What the spec refuses at run
time (the pairs 10_state.md R32 marks "(Not allowed)", and so on) is encodable and is refused by the meaning. -/

namespace Sys2Proof

/-- The operand size an immediate EA field stands for: `#xx:8` with `.B`, `#xx:16` with `.W` (R82). -/
def ImmEa.size : ImmEa → Size
  | .imm8 _ => .byte
  | .imm16 _ => .word

/-- A source operand fits the operand size: only an immediate has a width of its own. -/
def SrcEa.fits (sz : Size) : SrcEa → Bool
  | .reg _ => true
  | .mem _ => true
  | .imm i => i.size == sz

/-- The check of one instruction, one arm per constructor. -/
def Instr.wellFormed : Instr → Bool
  | .eaRn _ _ => true
  | .eaInd _ _ => true
  | .eaDisp8 _ _ _ => true
  | .eaDisp16 _ _ _ => true
  | .eaPreDec _ _ => true
  | .eaPostInc _ _ => true
  | .eaAbs8 _ _ => true
  | .eaAbs16 _ _ => true
  | .eaImm8 _ => true
  | .eaImm16 _ => true
  | .movGLoad sz src _ => src.fits sz
  | .movGStore _ _ _ => true
  | .movGImm8 _ _ _ => true
  | .movGImm16 _ _ => true
  | .ldm _ => true
  | .stm _ => true
  | .xch _ _ => true
  | .swap _ => true
  | .movtpe _ _ => true
  | .movfpe _ _ => true
  | .addG sz src _ => src.fits sz
  | .addQ1 _ _ => true
  | .addQ2 _ _ => true
  | .addQm1 _ _ => true
  | .addQm2 _ _ => true
  | .adds sz src _ => src.fits sz
  | .addx sz src _ => src.fits sz
  | .dadd _ _ => true
  | .sub sz src _ => src.fits sz
  | .subs sz src _ => src.fits sz
  | .subx sz src _ => src.fits sz
  | .dsub _ _ => true
  | .mulxu sz src _ => src.fits sz
  | .divxu sz src _ => src.fits sz
  | .cmpG sz src _ => src.fits sz
  | .cmpGImm8 _ _ => true
  | .cmpGImm16 _ _ => true
  | .exts _ => true
  | .extu _ => true
  | .tst _ _ => true
  | .neg _ _ => true
  | .clr _ _ => true
  | .tas _ => true
  | .shal _ _ => true
  | .shar _ _ => true
  | .shll _ _ => true
  | .shlr _ _ => true
  | .rotl _ _ => true
  | .rotr _ _ => true
  | .rotxl _ _ => true
  | .rotxr _ _ => true
  | .and sz src _ => src.fits sz
  | .or sz src _ => src.fits sz
  | .xor sz src _ => src.fits sz
  | .not _ _ => true
  | .bsetImm _ _ _ => true
  | .bsetReg _ _ _ => true
  | .bclrImm _ _ _ => true
  | .bclrReg _ _ _ => true
  | .bnotImm _ _ _ => true
  | .bnotReg _ _ _ => true
  | .btstImm _ _ _ => true
  | .btstReg _ _ _ => true
  | .movE _ _ => true
  | .movI _ _ => true
  | .movLB _ _ => true
  | .movLW _ _ => true
  | .movSB _ _ => true
  | .movSW _ _ => true
  | .movFLoadB _ _ => true
  | .movFLoadW _ _ => true
  | .movFStoreB _ _ => true
  | .movFStoreW _ _ => true
  | .cmpE _ _ => true
  | .cmpI _ _ => true
  | .bra8 _ => true
  | .brn8 _ => true
  | .bhi8 _ => true
  | .bls8 _ => true
  | .bcc8 _ => true
  | .bcs8 _ => true
  | .bne8 _ => true
  | .beq8 _ => true
  | .bvc8 _ => true
  | .bvs8 _ => true
  | .bpl8 _ => true
  | .bmi8 _ => true
  | .bge8 _ => true
  | .blt8 _ => true
  | .bgt8 _ => true
  | .ble8 _ => true
  | .bra16 _ => true
  | .brn16 _ => true
  | .bhi16 _ => true
  | .bls16 _ => true
  | .bcc16 _ => true
  | .bcs16 _ => true
  | .bne16 _ => true
  | .beq16 _ => true
  | .bvc16 _ => true
  | .bvs16 _ => true
  | .bpl16 _ => true
  | .bmi16 _ => true
  | .bge16 _ => true
  | .blt16 _ => true
  | .bgt16 _ => true
  | .ble16 _ => true
  | .jmpInd _ => true
  | .jmpAbs _ => true
  | .jmpDisp8 _ _ => true
  | .jmpDisp16 _ _ => true
  | .bsr8 _ => true
  | .bsr16 _ => true
  | .jsrInd _ => true
  | .jsrAbs _ => true
  | .jsrDisp8 _ _ => true
  | .jsrDisp16 _ _ => true
  | .rts => true
  | .rtd8 _ => true
  | .rtd16 _ => true
  | .scbF _ _ => true
  | .scbNe _ _ => true
  | .scbEq _ _ => true
  | .pjmpAbs _ _ => true
  | .pjmpInd _ => true
  | .pjsrAbs _ _ => true
  | .pjsrInd _ => true
  | .prts => true
  | .prtd8 _ => true
  | .prtd16 _ => true
  | .trapa _ => true
  | .trapVs => true
  | .rte => true
  | .link8 _ => true
  | .link16 _ => true
  | .unlk => true
  | .sleep => true
  | .ldc sz src _ => src.fits sz
  | .stc _ _ _ => true
  | .andc _ _ => true
  | .orc _ _ => true
  | .xorc _ _ => true
  | .nop => true

/-- An instruction that some encoding of 30_encoding.md stands for. -/
abbrev WellFormed (i : Instr) : Prop := i.wellFormed = true

end Sys2Proof
end

