-- ==== Sys2Proof/Machine/SystemControl.lean ====
section
/-! DEFINITION. The system control instructions (46_system.md). -/

namespace Sys2Proof.Machine

/-! ## Control registers -/

/-- The pairs of size and control register that are allowed (10_state.md R32). -/
def ctlAllowed : Size → CtlReg → Bool
  | .word, .sr => true
  | .byte, .ccr => true
  | .byte, .br => true
  | .byte, .ep => true
  | .byte, .dp => true
  | .byte, .tp => true
  | _, _ => false

/-- The value of a control register; CCR is the low byte of SR (R30, R277). -/
def readCtl (n : Nat) (cr : CtlReg) (s : State) : BitVec n :=
  match cr with
  | .sr => s.sr.toWord.setWidth n
  | .ccr => s.sr.toCcr.setWidth n
  | .br => s.br.setWidth n
  | .ep => s.ep.setWidth n
  | .dp => s.dp.setWidth n
  | .tp => s.tp.setWidth n
  | .ccc010 => 0
  | .ccc110 => 0

/-- Writes a control register, masked as R277 says. -/
def writeCtl {n : Nat} (cr : CtlReg) (v : BitVec n) (s : State) : State :=
  match cr with
  | .sr => s.setSr (Status.ofWord (v.setWidth 16))
  | .ccr => s.setSr (s.sr.withCcr (v.setWidth 8))
  | .br => s.setBr (v.setWidth 8)
  | .ep => s.setEp (v.setWidth 8)
  | .dp => s.setDp (v.setWidth 8)
  | .tp => s.setTp (v.setWidth 8)
  | .ccc010 => s
  | .ccc110 => s

/-- The refusal of a pair that R32 marks "(Not allowed)" (R277, U1). -/
def onAllowed (sz : Size) (cr : CtlReg) (k : Outcome) : Outcome :=
  if ctlAllowed sz cr then k else .refused .controlRegisterNotAllowed

/-- ANDC, ORC, XORC: `CR <- f CR xx`, masked as R277 says (R273 to R275, R278). -/
def ctlImmediate (imm : ImmEa) (cr : CtlReg) (s : State) (f : BitVec imm.size.bits → BitVec imm.size.bits →
    BitVec imm.size.bits) : Outcome :=
  onAllowed imm.size cr (.next (writeCtl cr (f (readCtl _ cr s) (immValue imm.size imm)) s))

/-- LINK with its immediate (R268). -/
def linkFrame (imm : Word) (s : State) : Outcome :=
  complete s do
    let s1 ← s.push16 (s.reg Config.fpIndex)
    let s2 := s1.setReg Config.fpIndex s1.sp
    pure (s2.setSp (s2.sp + imm))

/-! ## Meanings -/

/-- R265. -/
def execTrapa (v : BitVec 4) (s : State) : Outcome := ofEntry (takeException (Config.vecTrapa + v.toNat) s.pc s)

/-- R266. -/
def execTrapVs (s : State) : Outcome :=
  if s.flags.v then ofEntry (takeException Config.vecTrapVs s.pc s) else .next s

/-- R267. -/
def execRte (s : State) : Outcome := complete s (returnFromException s)

/-- R268, `#xx:8`. -/
def execLink8 (v : Byte) (s : State) : Outcome := linkFrame (sext16 v) s

/-- R268, `#xx:16`. -/
def execLink16 (v : Word) (s : State) : Outcome := linkFrame v s

/-- R269. SP is written before the pop, so an odd FP leaves it unspecified (60_exceptions.md R304). -/
def execUnlk (s : State) : Outcome :=
  complete s do
    let (v, s1) ← (s.setSp (s.reg Config.fpIndex)).pop16 (some Config.spIndex)
    pure (s1.setReg Config.fpIndex v)

/-- R270. With T = 1 the trace exception follows in the same step (notes/assumptions/49.md). -/
def execSleep (s : State) : Outcome := .next (s.setRunState .powerDown)

/-- R271. -/
def execLdc (sz : Size) (src : SrcEa) (cr : CtlReg) (s : State) : Outcome :=
  onAllowed sz cr (withSource sz src none s fun v s1 => .ok (writeCtl cr v s1))

/-- R272: no flag changes. -/
def execStc (sz : Size) (cr : CtlReg) (dst : DstEa) (s : State) : Outcome :=
  onAllowed sz cr (putDest sz dst none s (fun s1 => readCtl sz.bits cr s1) (fun s1 => s1.flags))

/-- R273. -/
def execAndc (imm : ImmEa) (cr : CtlReg) (s : State) : Outcome := ctlImmediate imm cr s fun a b => a &&& b

/-- R274. -/
def execOrc (imm : ImmEa) (cr : CtlReg) (s : State) : Outcome := ctlImmediate imm cr s fun a b => a ||| b

/-- R275. -/
def execXorc (imm : ImmEa) (cr : CtlReg) (s : State) : Outcome := ctlImmediate imm cr s fun a b => a ^^^ b

/-- R276: PC has been advanced by the fetch. -/
def execNop (s : State) : Outcome := .next s

end Sys2Proof.Machine
end

