-- ==== Sys2Proof/Machine/Unassigned.lean ====
section
/-! DEFINITION. The unassigned encodings of the general format: an EA field followed by an OP field that
30_encoding.md R99 lists as unassigned raises InvalidInstruction (60_exceptions.md R302; notes/assumptions/25.md). -/

namespace Sys2Proof.Machine

/-- R99, R302: `Rn`. -/
def execEaRn (s : State) : Outcome := ofEntry (raiseInvalidInstruction s)

/-- R99, R302: @Rn. -/
def execEaInd (s : State) : Outcome := ofEntry (raiseInvalidInstruction s)

/-- R99, R302: @(d:8,Rn). -/
def execEaDisp8 (s : State) : Outcome := ofEntry (raiseInvalidInstruction s)

/-- R99, R302: @(d:16,Rn). -/
def execEaDisp16 (s : State) : Outcome := ofEntry (raiseInvalidInstruction s)

/-- R99, R302: @-Rn. -/
def execEaPreDec (s : State) : Outcome := ofEntry (raiseInvalidInstruction s)

/-- R99, R302: @Rn+. -/
def execEaPostInc (s : State) : Outcome := ofEntry (raiseInvalidInstruction s)

/-- R99, R302: @aa:8. -/
def execEaAbs8 (s : State) : Outcome := ofEntry (raiseInvalidInstruction s)

/-- R99, R302: @aa:16. -/
def execEaAbs16 (s : State) : Outcome := ofEntry (raiseInvalidInstruction s)

/-- R99, R302: #xx:8. -/
def execEaImm8 (s : State) : Outcome := ofEntry (raiseInvalidInstruction s)

/-- R99, R302: #xx:16. -/
def execEaImm16 (s : State) : Outcome := ofEntry (raiseInvalidInstruction s)

end Sys2Proof.Machine
end

