-- ==== Sys2Proof/Machine/Dispatch.lean ====
section
/-! DEFINITION. The dispatch: one arm per constructor of `Instr`, one direct call of its meaning. -/

namespace Sys2Proof.Machine

def exec (i : Instr) (s : State) : Host.Outcome State Fault Refusal :=
  match i with
  | .eaRn _ _ => Sys2Proof.Machine.execEaRn s
  | .eaInd _ _ => Sys2Proof.Machine.execEaInd s
  | .eaDisp8 _ _ _ => Sys2Proof.Machine.execEaDisp8 s
  | .eaDisp16 _ _ _ => Sys2Proof.Machine.execEaDisp16 s
  | .eaPreDec _ _ => Sys2Proof.Machine.execEaPreDec s
  | .eaPostInc _ _ => Sys2Proof.Machine.execEaPostInc s
  | .eaAbs8 _ _ => Sys2Proof.Machine.execEaAbs8 s
  | .eaAbs16 _ _ => Sys2Proof.Machine.execEaAbs16 s
  | .eaImm8 _ => Sys2Proof.Machine.execEaImm8 s
  | .eaImm16 _ => Sys2Proof.Machine.execEaImm16 s
  | .movGLoad sz src d => Sys2Proof.Machine.execMovGLoad sz src d s
  | .movGStore sz r m => Sys2Proof.Machine.execMovGStore sz r m s
  | .movGImm8 sz v m => Sys2Proof.Machine.execMovGImm8 sz v m s
  | .movGImm16 v m => Sys2Proof.Machine.execMovGImm16 v m s
  | .ldm list => Sys2Proof.Machine.execLdm list s
  | .stm list => Sys2Proof.Machine.execStm list s
  | .xch r d => Sys2Proof.Machine.execXch r d s
  | .swap d => Sys2Proof.Machine.execSwap d s
  | .movtpe r m => Sys2Proof.Machine.execMovtpe r m s
  | .movfpe m d => Sys2Proof.Machine.execMovfpe m d s
  | .addG sz src d => Sys2Proof.Machine.execAddG sz src d s
  | .addQ1 sz dst => Sys2Proof.Machine.execAddQ1 sz dst s
  | .addQ2 sz dst => Sys2Proof.Machine.execAddQ2 sz dst s
  | .addQm1 sz dst => Sys2Proof.Machine.execAddQm1 sz dst s
  | .addQm2 sz dst => Sys2Proof.Machine.execAddQm2 sz dst s
  | .adds sz src d => Sys2Proof.Machine.execAdds sz src d s
  | .addx sz src d => Sys2Proof.Machine.execAddx sz src d s
  | .dadd r d => Sys2Proof.Machine.execDadd r d s
  | .sub sz src d => Sys2Proof.Machine.execSub sz src d s
  | .subs sz src d => Sys2Proof.Machine.execSubs sz src d s
  | .subx sz src d => Sys2Proof.Machine.execSubx sz src d s
  | .dsub r d => Sys2Proof.Machine.execDsub r d s
  | .mulxu sz src d => Sys2Proof.Machine.execMulxu sz src d s
  | .divxu sz src d => Sys2Proof.Machine.execDivxu sz src d s
  | .cmpG sz src d => Sys2Proof.Machine.execCmpG sz src d s
  | .cmpGImm8 v m => Sys2Proof.Machine.execCmpGImm8 v m s
  | .cmpGImm16 v m => Sys2Proof.Machine.execCmpGImm16 v m s
  | .exts d => Sys2Proof.Machine.execExts d s
  | .extu d => Sys2Proof.Machine.execExtu d s
  | .tst sz dst => Sys2Proof.Machine.execTst sz dst s
  | .neg sz dst => Sys2Proof.Machine.execNeg sz dst s
  | .clr sz dst => Sys2Proof.Machine.execClr sz dst s
  | .tas dst => Sys2Proof.Machine.execTas dst s
  | .shal sz dst => Sys2Proof.Machine.execShal sz dst s
  | .shar sz dst => Sys2Proof.Machine.execShar sz dst s
  | .shll sz dst => Sys2Proof.Machine.execShll sz dst s
  | .shlr sz dst => Sys2Proof.Machine.execShlr sz dst s
  | .rotl sz dst => Sys2Proof.Machine.execRotl sz dst s
  | .rotr sz dst => Sys2Proof.Machine.execRotr sz dst s
  | .rotxl sz dst => Sys2Proof.Machine.execRotxl sz dst s
  | .rotxr sz dst => Sys2Proof.Machine.execRotxr sz dst s
  | .and sz src d => Sys2Proof.Machine.execAnd sz src d s
  | .or sz src d => Sys2Proof.Machine.execOr sz src d s
  | .xor sz src d => Sys2Proof.Machine.execXor sz src d s
  | .not sz dst => Sys2Proof.Machine.execNot sz dst s
  | .bsetImm sz k dst => Sys2Proof.Machine.execBsetImm sz k dst s
  | .bsetReg sz r dst => Sys2Proof.Machine.execBsetReg sz r dst s
  | .bclrImm sz k dst => Sys2Proof.Machine.execBclrImm sz k dst s
  | .bclrReg sz r dst => Sys2Proof.Machine.execBclrReg sz r dst s
  | .bnotImm sz k dst => Sys2Proof.Machine.execBnotImm sz k dst s
  | .bnotReg sz r dst => Sys2Proof.Machine.execBnotReg sz r dst s
  | .btstImm sz k dst => Sys2Proof.Machine.execBtstImm sz k dst s
  | .btstReg sz r dst => Sys2Proof.Machine.execBtstReg sz r dst s
  | .movE v d => Sys2Proof.Machine.execMovE v d s
  | .movI v d => Sys2Proof.Machine.execMovI v d s
  | .movLB a d => Sys2Proof.Machine.execMovLB a d s
  | .movLW a d => Sys2Proof.Machine.execMovLW a d s
  | .movSB r a => Sys2Proof.Machine.execMovSB r a s
  | .movSW r a => Sys2Proof.Machine.execMovSW r a s
  | .movFLoadB x d => Sys2Proof.Machine.execMovFLoadB x d s
  | .movFLoadW x d => Sys2Proof.Machine.execMovFLoadW x d s
  | .movFStoreB r x => Sys2Proof.Machine.execMovFStoreB r x s
  | .movFStoreW r x => Sys2Proof.Machine.execMovFStoreW r x s
  | .cmpE v d => Sys2Proof.Machine.execCmpE v d s
  | .cmpI v d => Sys2Proof.Machine.execCmpI v d s
  | .bra8 x => Sys2Proof.Machine.execBra8 x s
  | .brn8 x => Sys2Proof.Machine.execBrn8 x s
  | .bhi8 x => Sys2Proof.Machine.execBhi8 x s
  | .bls8 x => Sys2Proof.Machine.execBls8 x s
  | .bcc8 x => Sys2Proof.Machine.execBcc8 x s
  | .bcs8 x => Sys2Proof.Machine.execBcs8 x s
  | .bne8 x => Sys2Proof.Machine.execBne8 x s
  | .beq8 x => Sys2Proof.Machine.execBeq8 x s
  | .bvc8 x => Sys2Proof.Machine.execBvc8 x s
  | .bvs8 x => Sys2Proof.Machine.execBvs8 x s
  | .bpl8 x => Sys2Proof.Machine.execBpl8 x s
  | .bmi8 x => Sys2Proof.Machine.execBmi8 x s
  | .bge8 x => Sys2Proof.Machine.execBge8 x s
  | .blt8 x => Sys2Proof.Machine.execBlt8 x s
  | .bgt8 x => Sys2Proof.Machine.execBgt8 x s
  | .ble8 x => Sys2Proof.Machine.execBle8 x s
  | .bra16 x => Sys2Proof.Machine.execBra16 x s
  | .brn16 x => Sys2Proof.Machine.execBrn16 x s
  | .bhi16 x => Sys2Proof.Machine.execBhi16 x s
  | .bls16 x => Sys2Proof.Machine.execBls16 x s
  | .bcc16 x => Sys2Proof.Machine.execBcc16 x s
  | .bcs16 x => Sys2Proof.Machine.execBcs16 x s
  | .bne16 x => Sys2Proof.Machine.execBne16 x s
  | .beq16 x => Sys2Proof.Machine.execBeq16 x s
  | .bvc16 x => Sys2Proof.Machine.execBvc16 x s
  | .bvs16 x => Sys2Proof.Machine.execBvs16 x s
  | .bpl16 x => Sys2Proof.Machine.execBpl16 x s
  | .bmi16 x => Sys2Proof.Machine.execBmi16 x s
  | .bge16 x => Sys2Proof.Machine.execBge16 x s
  | .blt16 x => Sys2Proof.Machine.execBlt16 x s
  | .bgt16 x => Sys2Proof.Machine.execBgt16 x s
  | .ble16 x => Sys2Proof.Machine.execBle16 x s
  | .jmpInd n => Sys2Proof.Machine.execJmpInd n s
  | .jmpAbs a => Sys2Proof.Machine.execJmpAbs a s
  | .jmpDisp8 n x => Sys2Proof.Machine.execJmpDisp8 n x s
  | .jmpDisp16 n x => Sys2Proof.Machine.execJmpDisp16 n x s
  | .bsr8 x => Sys2Proof.Machine.execBsr8 x s
  | .bsr16 x => Sys2Proof.Machine.execBsr16 x s
  | .jsrInd n => Sys2Proof.Machine.execJsrInd n s
  | .jsrAbs a => Sys2Proof.Machine.execJsrAbs a s
  | .jsrDisp8 n x => Sys2Proof.Machine.execJsrDisp8 n x s
  | .jsrDisp16 n x => Sys2Proof.Machine.execJsrDisp16 n x s
  | .rts => Sys2Proof.Machine.execRts s
  | .rtd8 v => Sys2Proof.Machine.execRtd8 v s
  | .rtd16 v => Sys2Proof.Machine.execRtd16 v s
  | .scbF n x => Sys2Proof.Machine.execScbF n x s
  | .scbNe n x => Sys2Proof.Machine.execScbNe n x s
  | .scbEq n x => Sys2Proof.Machine.execScbEq n x s
  | .pjmpAbs p a => Sys2Proof.Machine.execPjmpAbs p a s
  | .pjmpInd n => Sys2Proof.Machine.execPjmpInd n s
  | .pjsrAbs p a => Sys2Proof.Machine.execPjsrAbs p a s
  | .pjsrInd n => Sys2Proof.Machine.execPjsrInd n s
  | .prts => Sys2Proof.Machine.execPrts s
  | .prtd8 v => Sys2Proof.Machine.execPrtd8 v s
  | .prtd16 v => Sys2Proof.Machine.execPrtd16 v s
  | .trapa v => Sys2Proof.Machine.execTrapa v s
  | .trapVs => Sys2Proof.Machine.execTrapVs s
  | .rte => Sys2Proof.Machine.execRte s
  | .link8 v => Sys2Proof.Machine.execLink8 v s
  | .link16 v => Sys2Proof.Machine.execLink16 v s
  | .unlk => Sys2Proof.Machine.execUnlk s
  | .sleep => Sys2Proof.Machine.execSleep s
  | .ldc sz src cr => Sys2Proof.Machine.execLdc sz src cr s
  | .stc sz cr dst => Sys2Proof.Machine.execStc sz cr dst s
  | .andc imm cr => Sys2Proof.Machine.execAndc imm cr s
  | .orc imm cr => Sys2Proof.Machine.execOrc imm cr s
  | .xorc imm cr => Sys2Proof.Machine.execXorc imm cr s
  | .nop => Sys2Proof.Machine.execNop s

end Sys2Proof.Machine
end

