-- ==== Sys2Proof/Decode.lean ====
section
/-! DEFINITION. The decoder of 30_encoding.md R98, total on any bytes, and the encoder written from the same tables.
Bytes are in the order of rising addresses (R80); 16-bit fields are high byte first (R87). -/

namespace Sys2Proof

/-- What the bytes at an address stand for. -/
inductive Decoded where
  /-- An instruction, and the bytes after it. -/
  | instr (i : Instr) (rest : List Byte)
  /-- An encoding R99 lists as unassigned, in a special format (after an EA field the `ea…` instructions say so). -/
  | unassigned
  /-- More bytes are needed to tell. -/
  | truncated
deriving DecidableEq, Repr

/-! ## Fields -/

/-- The low three bits of a byte as a register number (R84). -/
def regField (b : Byte) : Reg := (b.extractLsb' 0 3).toFin

/-- The high five bits of a byte: the operation code of R89 and R94. -/
def opField (b : Byte) : Nat := (b.extractLsb' 3 5).toNat

/-- The low four bits of a byte: a bit number, a condition or a vector number. -/
def nibbleField (b : Byte) : BitVec 4 := b.extractLsb' 0 4

/-- Sz, bit 3 of the EA byte (R83). -/
def sizeField (b : Byte) : Size := if b.getLsbD 3 then .word else .byte

/-- A 16-bit quantity from its bytes, high byte first (R87). -/
def wordOf (h l : Byte) : Word := h ++ l

/-- The control register number `ccc` (10_state.md R32). -/
def ctlField (b : Byte) : CtlReg :=
  match (b.extractLsb' 0 3).toNat with
  | 0 => .sr
  | 1 => .ccr
  | 2 => .ccc010
  | 3 => .br
  | 4 => .ep
  | 5 => .dp
  | 6 => .ccc110
  | _ => .tp

/-- Takes the next byte. -/
def next8 (bs : List Byte) (k : Byte → List Byte → Decoded) : Decoded :=
  match bs with
  | [] => .truncated
  | b :: rest => k b rest

/-- Takes the next two bytes as a 16-bit quantity (R87). -/
def next16 (bs : List Byte) (k : Word → List Byte → Decoded) : Decoded :=
  next8 bs fun h bs => next8 bs fun l bs => k (wordOf h l) bs

/-- An instruction that takes one more byte. -/
def with8 (bs : List Byte) (i : Byte → Instr) : Decoded :=
  next8 bs fun v bs => .instr (i v) bs

/-- An instruction that takes one more 16-bit quantity. -/
def with16 (bs : List Byte) (i : Word → Instr) : Decoded :=
  next16 bs fun v bs => .instr (i v) bs

/-! ## The general format -/

/-- An EA field whose OP field is unassigned (R99). -/
def eaInstr (sz : Size) : SrcEa → Instr
  | .reg r => .eaRn sz r
  | .mem (.ind r) => .eaInd sz r
  | .mem (.disp8 r d) => .eaDisp8 sz r d
  | .mem (.disp16 r d) => .eaDisp16 sz r d
  | .mem (.preDec r) => .eaPreDec sz r
  | .mem (.postInc r) => .eaPostInc sz r
  | .mem (.abs8 a) => .eaAbs8 sz a
  | .mem (.abs16 a) => .eaAbs16 sz a
  | .imm (.imm8 v) => .eaImm8 v
  | .imm (.imm16 v) => .eaImm16 v

/-- The OP codes whose EA field is a source of class R, M or I (R89, R90, R91, R93). -/
def opSource (sz : Size) (ea : SrcEa) (op : Byte) : Option Instr :=
  match opField op with
  | 0b00100 => some (.addG sz ea (regField op))
  | 0b00101 => some (.adds sz ea (regField op))
  | 0b00110 => some (.sub sz ea (regField op))
  | 0b00111 => some (.subs sz ea (regField op))
  | 0b01000 => some (.or sz ea (regField op))
  | 0b01010 => some (.and sz ea (regField op))
  | 0b01100 => some (.xor sz ea (regField op))
  | 0b01110 => some (.cmpG sz ea (regField op))
  | 0b10000 => some (.movGLoad sz ea (regField op))
  | 0b10001 => some (.ldc sz ea (ctlField op))
  | 0b10100 => some (.addx sz ea (regField op))
  | 0b10101 => some (.mulxu sz ea (regField op))
  | 0b10110 => some (.subx sz ea (regField op))
  | 0b10111 => some (.divxu sz ea (regField op))
  | _ => none

/-- The one-byte OP codes without a register number whose EA field is a destination of class R or M (R89). -/
def opFixed (sz : Size) (dst : DstEa) (op : Byte) : Option Instr :=
  match op.toNat with
  | 0x08 => some (.addQ1 sz dst)
  | 0x09 => some (.addQ2 sz dst)
  | 0x0C => some (.addQm1 sz dst)
  | 0x0D => some (.addQm2 sz dst)
  | 0x13 => some (.clr sz dst)
  | 0x14 => some (.neg sz dst)
  | 0x15 => some (.not sz dst)
  | 0x16 => some (.tst sz dst)
  | 0x17 => if sz = .byte then some (.tas dst) else none
  | 0x18 => some (.shal sz dst)
  | 0x19 => some (.shar sz dst)
  | 0x1A => some (.shll sz dst)
  | 0x1B => some (.shlr sz dst)
  | 0x1C => some (.rotl sz dst)
  | 0x1D => some (.rotr sz dst)
  | 0x1E => some (.rotxl sz dst)
  | 0x1F => some (.rotxr sz dst)
  | _ => none

/-- The OP codes whose EA field is a destination of class R or M (R89, R90, R91). -/
def opDest (sz : Size) (dst : DstEa) (op : Byte) : Option Instr :=
  match opField op with
  | 0b01001 => some (.bsetReg sz (regField op) dst)
  | 0b01011 => some (.bclrReg sz (regField op) dst)
  | 0b01101 => some (.bnotReg sz (regField op) dst)
  | 0b01111 => some (.btstReg sz (regField op) dst)
  | 0b10011 => some (.stc sz (ctlField op) dst)
  | 0b11000 | 0b11001 => some (.bsetImm sz (nibbleField op) dst)
  | 0b11010 | 0b11011 => some (.bclrImm sz (nibbleField op) dst)
  | 0b11100 | 0b11101 => some (.bnotImm sz (nibbleField op) dst)
  | 0b11110 | 0b11111 => some (.btstImm sz (nibbleField op) dst)
  | _ => opFixed sz dst op

/-- The OP codes valid after a register EA only, but for H'00 (R90, R100). -/
def opRegOnly (sz : Size) (r : Reg) (op : Byte) : Option Instr :=
  match opField op, sz with
  | 0b00010, .byte =>
    match op.toNat with
    | 0x10 => some (.swap r)
    | 0x11 => some (.exts r)
    | 0x12 => some (.extu r)
    | _ => none
  | 0b10010, .word => some (.xch r (regField op))
  | _, _ => none

/-- The second OP byte after H'00 behind a register EA (R92, R100). -/
def opReg00 (sz : Size) (r : Reg) (op : Byte) : Option Instr :=
  match opField op, sz with
  | 0b10100, .byte => some (.dadd r (regField op))
  | 0b10110, .byte => some (.dsub r (regField op))
  | _, _ => none

/-- The second OP byte after H'00 behind a memory EA (R92, R100). -/
def opMem00 (sz : Size) (m : MemEa) (op : Byte) : Option Instr :=
  match opField op, sz with
  | 0b10000, .byte => some (.movfpe m (regField op))
  | 0b10010, .byte => some (.movtpe (regField op) m)
  | _, _ => none

/-- The OP codes after an immediate EA that name a control register (R89, R93). -/
def opImmOnly (i : ImmEa) (op : Byte) : Option Instr :=
  match opField op with
  | 0b01001 => some (.orc i (ctlField op))
  | 0b01011 => some (.andc i (ctlField op))
  | 0b01101 => some (.xorc i (ctlField op))
  | _ => none

/-- An instruction the OP byte names, or the EA field with an unassigned OP field. -/
def opResult (sz : Size) (ea : SrcEa) (rest : List Byte) (o : Option Instr) : Decoded :=
  .instr (o.getD (eaInstr sz ea)) rest

/-- The OP field after a register EA (R90). -/
def opAfterReg (sz : Size) (r : Reg) (op : Byte) (bs : List Byte) : Decoded :=
  if op = 0x00 then next8 bs fun op2 bs => opResult sz (.reg r) bs (opReg00 sz r op2)
  else opResult sz (.reg r) bs
    ((opSource sz (.reg r) op).or ((opRegOnly sz r op).or (opDest sz (.reg r) op)))

/-- The OP field after a memory EA (R91). OP codes 04 to 07 take an immediate, in the sizes R100 lists. -/
def opAfterMem (sz : Size) (m : MemEa) (op : Byte) (bs : List Byte) : Decoded :=
  match op.toNat, sz with
  | 0x00, _ => next8 bs fun op2 bs => opResult sz (.mem m) bs (opMem00 sz m op2)
  | 0x04, .byte => with8 bs fun v => .cmpGImm8 v m
  | 0x05, .word => with16 bs fun v => .cmpGImm16 v m
  | 0x06, _ => with8 bs fun v => .movGImm8 sz v m
  | 0x07, .word => with16 bs fun v => .movGImm16 v m
  | _, _ =>
    if opField op = 0b10010 then .instr (.movGStore sz (regField op) m) bs
    else opResult sz (.mem m) bs ((opSource sz (.mem m) op).or (opDest sz (.mem m) op))

/-- The OP field after an immediate EA (R93). -/
def opAfterImm (i : ImmEa) (sz : Size) (op : Byte) (bs : List Byte) : Decoded :=
  opResult sz (.imm i) bs ((opSource sz (.imm i) op).or (opImmOnly i op))

/-- The OP field after an EA field, by the class of the EA (R98 step 5). -/
def opAfter (sz : Size) (ea : SrcEa) (bs : List Byte) : Decoded :=
  next8 bs fun op bs =>
    match ea with
    | .reg r => opAfterReg sz r op bs
    | .mem m => opAfterMem sz m op bs
    | .imm i => opAfterImm i sz op bs

/-- The further EA bytes and the OP field after the first byte of an EA field of R82; none for another byte. -/
def decodeGeneral (b : Byte) (bs : List Byte) : Option Decoded :=
  let sz := sizeField b
  let r := regField b
  match b.toNat with
  | 0x04 => some (next8 bs fun v bs => opAfter .byte (.imm (.imm8 v)) bs)
  | 0x0C => some (next16 bs fun v bs => opAfter .word (.imm (.imm16 v)) bs)
  | 0x05 | 0x0D => some (next8 bs fun a bs => opAfter sz (.mem (.abs8 a)) bs)
  | 0x15 | 0x1D => some (next16 bs fun a bs => opAfter sz (.mem (.abs16 a)) bs)
  | _ =>
    match (b.extractLsb' 4 4).toNat with
    | 0xA => some (opAfter sz (.reg r) bs)
    | 0xB => some (opAfter sz (.mem (.preDec r)) bs)
    | 0xC => some (opAfter sz (.mem (.postInc r)) bs)
    | 0xD => some (opAfter sz (.mem (.ind r)) bs)
    | 0xE => some (next8 bs fun d bs => opAfter sz (.mem (.disp8 r d)) bs)
    | 0xF => some (next16 bs fun d bs => opAfter sz (.mem (.disp16 r d)) bs)
    | _ => none

/-! ## The special formats -/

/-- The byte after H'11 (R92, R95). -/
def decode11 (bs : List Byte) : Decoded :=
  next8 bs fun b bs =>
    let n := regField b
    match b.toNat with
    | 0x14 => with8 bs .prtd8
    | 0x19 => .instr .prts bs
    | 0x1C => with16 bs .prtd16
    | _ =>
      match opField b with
      | 0b11000 => .instr (.pjmpInd n) bs
      | 0b11001 => .instr (.pjsrInd n) bs
      | 0b11010 => .instr (.jmpInd n) bs
      | 0b11011 => .instr (.jsrInd n) bs
      | 0b11100 => with8 bs (.jmpDisp8 n)
      | 0b11101 => with8 bs (.jsrDisp8 n)
      | 0b11110 => with16 bs (.jmpDisp16 n)
      | 0b11111 => with16 bs (.jsrDisp16 n)
      | _ => .unassigned

/-- The second byte of SCB, `10111rrr`, and its displacement (R95, 45_branch.md R256). -/
def decodeScb (bs : List Byte) (i : Reg → Byte → Instr) : Decoded :=
  next8 bs fun b bs => if opField b = 0b10111 then with8 bs (i (regField b)) else .unassigned

/-- The second byte of TRAPA, `0001vvvv` (R96, D38). -/
def decodeTrapa (bs : List Byte) : Decoded :=
  next8 bs fun b bs => if (b.extractLsb' 4 4).toNat = 1 then .instr (.trapa (nibbleField b)) bs else .unassigned

/-- `Bcc d:8`, first byte `0010cccc` (R95). -/
def bcc8 (x : Byte) (c : BitVec 4) : Instr :=
  match c.toNat with
  | 0 => .bra8 x
  | 1 => .brn8 x
  | 2 => .bhi8 x
  | 3 => .bls8 x
  | 4 => .bcc8 x
  | 5 => .bcs8 x
  | 6 => .bne8 x
  | 7 => .beq8 x
  | 8 => .bvc8 x
  | 9 => .bvs8 x
  | 10 => .bpl8 x
  | 11 => .bmi8 x
  | 12 => .bge8 x
  | 13 => .blt8 x
  | 14 => .bgt8 x
  | _ => .ble8 x

/-- `Bcc d:16`, first byte `0011cccc` (R95). -/
def bcc16 (x : Word) (c : BitVec 4) : Instr :=
  match c.toNat with
  | 0 => .bra16 x
  | 1 => .brn16 x
  | 2 => .bhi16 x
  | 3 => .bls16 x
  | 4 => .bcc16 x
  | 5 => .bcs16 x
  | 6 => .bne16 x
  | 7 => .beq16 x
  | 8 => .bvc16 x
  | 9 => .bvs16 x
  | 10 => .bpl16 x
  | 11 => .bmi16 x
  | 12 => .bge16 x
  | 13 => .blt16 x
  | 14 => .bgt16 x
  | _ => .ble16 x

/-- The short formats, whose first byte holds a five-bit operation code and a register (R94). -/
def decodeShort (b : Byte) (bs : List Byte) : Decoded :=
  let d := regField b
  match opField b with
  | 0b01000 => with8 bs fun v => .cmpE v d
  | 0b01001 => with16 bs fun v => .cmpI v d
  | 0b01010 => with8 bs fun v => .movE v d
  | 0b01011 => with16 bs fun v => .movI v d
  | 0b01100 => with8 bs fun a => .movLB a d
  | 0b01101 => with8 bs fun a => .movLW a d
  | 0b01110 => with8 bs fun a => .movSB d a
  | 0b01111 => with8 bs fun a => .movSW d a
  | 0b10000 => with8 bs fun x => .movFLoadB x d
  | 0b10001 => with8 bs fun x => .movFLoadW x d
  | 0b10010 => with8 bs fun x => .movFStoreB d x
  | 0b10011 => with8 bs fun x => .movFStoreW d x
  | _ => .unassigned

/-- The special formats by the first byte (R97, R98 steps 1 to 4). -/
def decodeSpecial (b : Byte) (bs : List Byte) : Decoded :=
  match b.toNat with
  | 0x00 => .instr .nop bs
  | 0x01 => decodeScb bs .scbF
  | 0x02 => with8 bs .ldm
  | 0x03 => next8 bs fun p bs => with16 bs (.pjsrAbs p)
  | 0x06 => decodeScb bs .scbNe
  | 0x07 => decodeScb bs .scbEq
  | 0x08 => decodeTrapa bs
  | 0x09 => .instr .trapVs bs
  | 0x0A => .instr .rte bs
  | 0x0E => with8 bs .bsr8
  | 0x0F => .instr .unlk bs
  | 0x10 => with16 bs .jmpAbs
  | 0x11 => decode11 bs
  | 0x12 => with8 bs .stm
  | 0x13 => next8 bs fun p bs => with16 bs (.pjmpAbs p)
  | 0x14 => with8 bs .rtd8
  | 0x17 => with8 bs .link8
  | 0x18 => with16 bs .jsrAbs
  | 0x19 => .instr .rts bs
  | 0x1A => .instr .sleep bs
  | 0x1C => with16 bs .rtd16
  | 0x1E => with16 bs .bsr16
  | 0x1F => with16 bs .link16
  | _ =>
    match (b.extractLsb' 4 4).toNat with
    | 0x2 => with8 bs fun x => bcc8 x (nibbleField b)
    | 0x3 => with16 bs fun x => bcc16 x (nibbleField b)
    | _ => decodeShort b bs

/-- The decoder (R98): what the bytes from an address on stand for. -/
def decode (bs : List Byte) : Decoded :=
  next8 bs fun b bs => (decodeGeneral b bs).getD (decodeSpecial b bs)

/-! ## The encoder -/

/-- A byte of a five-bit code and a register number (R84). -/
def byteReg (p : BitVec 5) (r : Reg) : Byte := p ++ BitVec.ofFin (w := 3) r

/-- A byte of a four-bit code and a four-bit field (R89, R95, R96). -/
def byteNibble (p k : BitVec 4) : Byte := p ++ k

/-- The number `ccc` of a control register (10_state.md R32). -/
def CtlReg.code : CtlReg → Reg
  | .sr => 0
  | .ccr => 1
  | .ccc010 => 2
  | .br => 3
  | .ep => 4
  | .dp => 5
  | .ccc110 => 6
  | .tp => 7

/-- A 16-bit quantity as bytes, high byte first (R87). -/
def bytes16 (v : Word) : List Byte := [v.extractLsb' 8 8, v.extractLsb' 0 8]

/-- The EA byte `ppppSzrrr` (R82). -/
def eaByte (p : BitVec 4) (sz : Size) (r : Reg) : Byte :=
  match sz with
  | .byte => byteReg (p ++ 0#1) r
  | .word => byteReg (p ++ 1#1) r

/-- The EA field of a memory mode (R82). -/
def MemEa.encode (sz : Size) : MemEa → List Byte
  | .ind r => [eaByte 0b1101 sz r]
  | .disp8 r d => [eaByte 0b1110 sz r, d]
  | .disp16 r d => eaByte 0b1111 sz r :: bytes16 d
  | .preDec r => [eaByte 0b1011 sz r]
  | .postInc r => [eaByte 0b1100 sz r]
  | .abs8 a => [eaByte 0b0000 sz 5, a]
  | .abs16 a => eaByte 0b0001 sz 5 :: bytes16 a

/-- The EA field of a destination (R82). -/
def DstEa.encode (sz : Size) : DstEa → List Byte
  | .reg r => [eaByte 0b1010 sz r]
  | .mem m => m.encode sz

/-- The EA field of an immediate (R82). -/
def ImmEa.encode : ImmEa → List Byte
  | .imm8 v => [0x04, v]
  | .imm16 v => 0x0C :: bytes16 v

/-- The EA field of a source (R82). -/
def SrcEa.encode (sz : Size) : SrcEa → List Byte
  | .reg r => [eaByte 0b1010 sz r]
  | .mem m => m.encode sz
  | .imm i => i.encode

/-- The bytes of an instruction (R89, R94, R95, R96). For an `ea…` instruction the OP field is H'01 (register and
memory EA) or H'00 (immediate EA), each unassigned by R99. -/
def encode : Instr → List Byte
  | .eaRn sz r => (DstEa.reg r).encode sz ++ [0x01]
  | .eaInd sz r => (MemEa.ind r).encode sz ++ [0x01]
  | .eaDisp8 sz r d => (MemEa.disp8 r d).encode sz ++ [0x01]
  | .eaDisp16 sz r d => (MemEa.disp16 r d).encode sz ++ [0x01]
  | .eaPreDec sz r => (MemEa.preDec r).encode sz ++ [0x01]
  | .eaPostInc sz r => (MemEa.postInc r).encode sz ++ [0x01]
  | .eaAbs8 sz a => (MemEa.abs8 a).encode sz ++ [0x01]
  | .eaAbs16 sz a => (MemEa.abs16 a).encode sz ++ [0x01]
  | .eaImm8 v => (ImmEa.imm8 v).encode ++ [0x00]
  | .eaImm16 v => (ImmEa.imm16 v).encode ++ [0x00]
  | .movGLoad sz src d => src.encode sz ++ [byteReg 0b10000 d]
  | .movGStore sz s m => m.encode sz ++ [byteReg 0b10010 s]
  | .movGImm8 sz v m => m.encode sz ++ [0x06, v]
  | .movGImm16 v m => m.encode .word ++ 0x07 :: bytes16 v
  | .ldm list => [0x02, list]
  | .stm list => [0x12, list]
  | .xch s d => [eaByte 0b1010 .word s, byteReg 0b10010 d]
  | .swap d => [eaByte 0b1010 .byte d, 0x10]
  | .movtpe s m => m.encode .byte ++ [0x00, byteReg 0b10010 s]
  | .movfpe m d => m.encode .byte ++ [0x00, byteReg 0b10000 d]
  | .addG sz src d => src.encode sz ++ [byteReg 0b00100 d]
  | .addQ1 sz dst => dst.encode sz ++ [0x08]
  | .addQ2 sz dst => dst.encode sz ++ [0x09]
  | .addQm1 sz dst => dst.encode sz ++ [0x0C]
  | .addQm2 sz dst => dst.encode sz ++ [0x0D]
  | .adds sz src d => src.encode sz ++ [byteReg 0b00101 d]
  | .addx sz src d => src.encode sz ++ [byteReg 0b10100 d]
  | .dadd s d => [eaByte 0b1010 .byte s, 0x00, byteReg 0b10100 d]
  | .sub sz src d => src.encode sz ++ [byteReg 0b00110 d]
  | .subs sz src d => src.encode sz ++ [byteReg 0b00111 d]
  | .subx sz src d => src.encode sz ++ [byteReg 0b10110 d]
  | .dsub s d => [eaByte 0b1010 .byte s, 0x00, byteReg 0b10110 d]
  | .mulxu sz src d => src.encode sz ++ [byteReg 0b10101 d]
  | .divxu sz src d => src.encode sz ++ [byteReg 0b10111 d]
  | .cmpG sz src d => src.encode sz ++ [byteReg 0b01110 d]
  | .cmpGImm8 v m => m.encode .byte ++ [0x04, v]
  | .cmpGImm16 v m => m.encode .word ++ 0x05 :: bytes16 v
  | .exts d => [eaByte 0b1010 .byte d, 0x11]
  | .extu d => [eaByte 0b1010 .byte d, 0x12]
  | .tst sz dst => dst.encode sz ++ [0x16]
  | .neg sz dst => dst.encode sz ++ [0x14]
  | .clr sz dst => dst.encode sz ++ [0x13]
  | .tas dst => dst.encode .byte ++ [0x17]
  | .shal sz dst => dst.encode sz ++ [0x18]
  | .shar sz dst => dst.encode sz ++ [0x19]
  | .shll sz dst => dst.encode sz ++ [0x1A]
  | .shlr sz dst => dst.encode sz ++ [0x1B]
  | .rotl sz dst => dst.encode sz ++ [0x1C]
  | .rotr sz dst => dst.encode sz ++ [0x1D]
  | .rotxl sz dst => dst.encode sz ++ [0x1E]
  | .rotxr sz dst => dst.encode sz ++ [0x1F]
  | .and sz src d => src.encode sz ++ [byteReg 0b01010 d]
  | .or sz src d => src.encode sz ++ [byteReg 0b01000 d]
  | .xor sz src d => src.encode sz ++ [byteReg 0b01100 d]
  | .not sz dst => dst.encode sz ++ [0x15]
  | .bsetImm sz k dst => dst.encode sz ++ [byteNibble 0b1100 k]
  | .bsetReg sz s dst => dst.encode sz ++ [byteReg 0b01001 s]
  | .bclrImm sz k dst => dst.encode sz ++ [byteNibble 0b1101 k]
  | .bclrReg sz s dst => dst.encode sz ++ [byteReg 0b01011 s]
  | .bnotImm sz k dst => dst.encode sz ++ [byteNibble 0b1110 k]
  | .bnotReg sz s dst => dst.encode sz ++ [byteReg 0b01101 s]
  | .btstImm sz k dst => dst.encode sz ++ [byteNibble 0b1111 k]
  | .btstReg sz s dst => dst.encode sz ++ [byteReg 0b01111 s]
  | .movE v d => byteReg 0b01010 d :: [v]
  | .movI v d => byteReg 0b01011 d :: bytes16 v
  | .movLB a d => byteReg 0b01100 d :: [a]
  | .movLW a d => byteReg 0b01101 d :: [a]
  | .movSB s a => byteReg 0b01110 s :: [a]
  | .movSW s a => byteReg 0b01111 s :: [a]
  | .movFLoadB x d => byteReg 0b10000 d :: [x]
  | .movFLoadW x d => byteReg 0b10001 d :: [x]
  | .movFStoreB s x => byteReg 0b10010 s :: [x]
  | .movFStoreW s x => byteReg 0b10011 s :: [x]
  | .cmpE v d => byteReg 0b01000 d :: [v]
  | .cmpI v d => byteReg 0b01001 d :: bytes16 v
  | .bra8 x => [0x20, x]
  | .brn8 x => [0x21, x]
  | .bhi8 x => [0x22, x]
  | .bls8 x => [0x23, x]
  | .bcc8 x => [0x24, x]
  | .bcs8 x => [0x25, x]
  | .bne8 x => [0x26, x]
  | .beq8 x => [0x27, x]
  | .bvc8 x => [0x28, x]
  | .bvs8 x => [0x29, x]
  | .bpl8 x => [0x2A, x]
  | .bmi8 x => [0x2B, x]
  | .bge8 x => [0x2C, x]
  | .blt8 x => [0x2D, x]
  | .bgt8 x => [0x2E, x]
  | .ble8 x => [0x2F, x]
  | .bra16 x => 0x30 :: bytes16 x
  | .brn16 x => 0x31 :: bytes16 x
  | .bhi16 x => 0x32 :: bytes16 x
  | .bls16 x => 0x33 :: bytes16 x
  | .bcc16 x => 0x34 :: bytes16 x
  | .bcs16 x => 0x35 :: bytes16 x
  | .bne16 x => 0x36 :: bytes16 x
  | .beq16 x => 0x37 :: bytes16 x
  | .bvc16 x => 0x38 :: bytes16 x
  | .bvs16 x => 0x39 :: bytes16 x
  | .bpl16 x => 0x3A :: bytes16 x
  | .bmi16 x => 0x3B :: bytes16 x
  | .bge16 x => 0x3C :: bytes16 x
  | .blt16 x => 0x3D :: bytes16 x
  | .bgt16 x => 0x3E :: bytes16 x
  | .ble16 x => 0x3F :: bytes16 x
  | .jmpInd n => [0x11, byteReg 0b11010 n]
  | .jmpAbs a => 0x10 :: bytes16 a
  | .jmpDisp8 n x => [0x11, byteReg 0b11100 n, x]
  | .jmpDisp16 n x => 0x11 :: byteReg 0b11110 n :: bytes16 x
  | .bsr8 x => [0x0E, x]
  | .bsr16 x => 0x1E :: bytes16 x
  | .jsrInd n => [0x11, byteReg 0b11011 n]
  | .jsrAbs a => 0x18 :: bytes16 a
  | .jsrDisp8 n x => [0x11, byteReg 0b11101 n, x]
  | .jsrDisp16 n x => 0x11 :: byteReg 0b11111 n :: bytes16 x
  | .rts => [0x19]
  | .rtd8 v => [0x14, v]
  | .rtd16 v => 0x1C :: bytes16 v
  | .scbF n x => [0x01, byteReg 0b10111 n, x]
  | .scbNe n x => [0x06, byteReg 0b10111 n, x]
  | .scbEq n x => [0x07, byteReg 0b10111 n, x]
  | .pjmpAbs p a => 0x13 :: p :: bytes16 a
  | .pjmpInd n => [0x11, byteReg 0b11000 n]
  | .pjsrAbs p a => 0x03 :: p :: bytes16 a
  | .pjsrInd n => [0x11, byteReg 0b11001 n]
  | .prts => [0x11, 0x19]
  | .prtd8 v => [0x11, 0x14, v]
  | .prtd16 v => 0x11 :: 0x1C :: bytes16 v
  | .trapa v => [0x08, byteNibble 0b0001 v]
  | .trapVs => [0x09]
  | .rte => [0x0A]
  | .link8 v => [0x17, v]
  | .link16 v => 0x1F :: bytes16 v
  | .unlk => [0x0F]
  | .sleep => [0x1A]
  | .ldc sz src cr => src.encode sz ++ [byteReg 0b10001 cr.code]
  | .stc sz cr dst => dst.encode sz ++ [byteReg 0b10011 cr.code]
  | .andc imm cr => imm.encode ++ [byteReg 0b01011 cr.code]
  | .orc imm cr => imm.encode ++ [byteReg 0b01001 cr.code]
  | .xorc imm cr => imm.encode ++ [byteReg 0b01101 cr.code]
  | .nop => [0x00]

/-! ## Instructions as the opcode table numbers them -/

/-- `n` bytes of the number `w`, the most significant first: the order in which the table's rows of several bytes
are numbered (the first byte in the highest bits). -/
def bytesHighFirst (w : Nat) : Nat → List Byte
  | 0 => []
  | n + 1 => BitVec.ofNat 8 (w / 2 ^ (8 * n)) :: bytesHighFirst w n

/-- `n` bytes of the number `w`, the least significant first. -/
def bytesLowFirst (w : Nat) : Nat → List Byte
  | 0 => []
  | n + 1 => BitVec.ofNat 8 w :: bytesLowFirst (w / 2 ^ 8) n

/-- The longest instruction has six bytes (R80). -/
def maxLength : Nat := 6

/-- Bytes extended with zeros to the longest instruction. -/
def padBytes (bs : List Byte) : List Byte := bs ++ List.replicate (maxLength - bs.length) 0

/-- The ten `<EA>` rows of the table. -/
def Instr.isEaRow : Instr → Bool
  | .eaRn .. | .eaInd .. | .eaDisp8 .. | .eaDisp16 .. | .eaPreDec .. | .eaPostInc ..
  | .eaAbs8 .. | .eaAbs16 .. | .eaImm8 .. | .eaImm16 .. => true
  | _ => false

/-- Whether the bytes, with zeros after them, are an instruction of the table's other 133 rows of exactly `n` bytes. -/
def readsExactly (n : Nat) (bs : List Byte) : Bool :=
  match decode (padBytes bs) with
  | .instr i rest => !i.isEaRow && maxLength - rest.length == n
  | _ => false

/-- The bytes of the instruction whose `nbits` bits are `w`, padded with zeros. The table numbers the first byte of
a row in its highest bits; a number that is an instruction only when bytes count up from bit 0 is read so
(DESIGN CHOICE, notes/assumptions/26.md). -/
def tableBytes (nbits w : Nat) : List Byte :=
  let n := (nbits + 7) / 8
  let high := bytesHighFirst w n
  let low := bytesLowFirst w n
  padBytes (if !readsExactly n high && readsExactly n low then low else high)

/-- The instruction the decoder reads from a word of the opcode table. -/
def decodeTableWord (nbits w : Nat) : Option Instr :=
  match decode (tableBytes nbits w) with
  | .instr i _ => some i
  | _ => none

end Sys2Proof
end

