-- ==== Sys2Proof/Machine/Fetch.lean ====
section
/-! DEFINITION. Fetching the next instruction (10_state.md R25, 20_memory.md R56, R67), supplying instruction bytes from
outside the machine, and the trace exception after an instruction (60_exceptions.md R312). -/

namespace Sys2Proof.Machine

/-- The address of the instruction byte `off` bytes from PC; PC wraps at 16 bits within its page (10_state.md R26). -/
def fetchAddr (s : State) (off : Nat) : Addr := phys s .code (s.pc + BitVec.ofNat 16 off)

/-- `Fetch8()` at an offset from PC, at any address (20_memory.md R56): a byte the program has stored is refused (R67),
and so is one that was never supplied (60_exceptions.md R324). -/
def fetchByte (s : State) (off : Nat) : Except Refusal Byte :=
  if s.stored.contains (fetchAddr s off).toNat then .error .fetchOfStoredByte
  else
    match s.byteAt (fetchAddr s off) with
    | some v => .ok v
    | none => .error .memoryNotSupplied

/-- Up to `n` instruction bytes from an offset on, as far as they can be fetched. -/
def fetchBytes (s : State) (off : Nat) : Nat → List Byte
  | 0 => []
  | n + 1 =>
    match fetchByte s off with
    | .ok v => v :: fetchBytes s (off + 1) n
    | .error _ => []

/-- The bytes the next instruction is read from, at most the longest instruction (30_encoding.md R80). -/
def fetchWindow (s : State) : List Byte := fetchBytes s 0 maxLength

/-- The next instruction and the state with PC advanced past its bytes (10_state.md R25), or the outcome of a fetch that
gives none: InvalidInstruction (60_exceptions.md R302), or the refusal of the first byte that cannot be fetched. -/
def fetchInstr (s : State) : Except Outcome (Instr × State) :=
  match decode (fetchWindow s) with
  | .instr i rest => .ok (i, s.setPc (s.pc + BitVec.ofNat 16 ((fetchWindow s).length - rest.length)))
  | .unassigned => .error (ofEntry (raiseInvalidInstruction s))
  | .truncated =>
    match fetchByte s (fetchWindow s).length with
    | .error r => .error (.refused r)
    | .ok _ => .error (ofEntry (raiseInvalidInstruction s))

/-- The trace exception (R312): `t` is T at the start of the instruction; the exception is taken after it, and after any
exception it raised has been entered (notes/assumptions/12.md). The rules do not say which of R312 and R315 governs SLEEP with
T = 1; here it is R312, so the trace exception leaves the power-down state in the same step and the run goes on (DESIGN
CHOICE, unsafe; notes/assumptions/49.md). -/
def traceAfter (t : Bool) : Outcome → Outcome
  | .next s => if t then ofEntry (takeException Config.vecTrace s.pc s) else .next s
  | .fault f => .fault f
  | .refused r => .refused r

/-- A byte supplied from outside the machine: it counts as launched, not as stored (20_memory.md R61, R67). -/
def State.supplyByte (s : State) (a : Addr) (v : Byte) : State :=
  { s with mem := s.mem.write a.toNat v, stored := s.stored.filter (· != a.toNat) }

/-- Supplies the instruction bytes from an offset from PC on. -/
def State.supplyCode (s : State) (off : Nat) : List Byte → State
  | [] => s
  | v :: rest => (s.supplyByte (fetchAddr s off) v).supplyCode (off + 1) rest

end Sys2Proof.Machine
end

