-- ==== Sys2Proof/Machine/Step.lean ====
section
/-! DEFINITION. One step of the machine, and the placing of an instruction where the next step fetches. -/

namespace Sys2Proof.Machine

/-- One step: an instruction is fetched and executed, then a trace exception is taken if T was set at its start
(60_exceptions.md R312). A step begun in the power-down state changes nothing (R315; notes/assumptions/14.md); SLEEP with
T = 1 does not end its step there (notes/assumptions/49.md). -/
def step (s : State) : Host.Outcome State Fault Refusal :=
  match s.runState with
  | .powerDown => .next s
  | .running =>
    traceAfter s.sr.t
      (match fetchInstr s with
       | .ok (i, s1) => exec i s1
       | .error o => o)

/-- The state with an instruction of the opcode table supplied at PC, in normal running, so that `step` runs it
(notes/assumptions/3.md). -/
def State.withFetchWord (s : State) (nbits w : Nat) : State :=
  (s.setRunState .running).supplyCode 0 (tableBytes nbits w)

end Sys2Proof.Machine
end

