-- ==== Sys2Proof/Laws/PerInstr.lean ====
section
/-! SUPPORT. A fact about each instruction as syntax: its encoding has 1 to 6 bytes (30_encoding.md R80), one lemma per
constructor. -/

namespace Sys2Proof.Laws.EncodedLength

open Sys2Proof

/-- The encoding of an instruction has 1 to 6 bytes (R80). -/
def Statement (i : Instr) : Prop := 1 ≤ (encode i).length ∧ (encode i).length ≤ 6

/-- An encoding whose length computes. -/
theorem of_length {i : Instr} {n : Nat} (h : (encode i).length = n) (h1 : 1 ≤ n) (h6 : n ≤ 6) : Statement i := by
  subst h
  exact ⟨h1, h6⟩

/-- An encoding that is an EA field and at most three bytes more. -/
theorem of_field {i : Instr} {ea tail : List Byte} (h : encode i = ea ++ tail)
    (he : 1 ≤ ea.length ∧ ea.length ≤ 3) (ht : tail.length ≤ 3) : Statement i := by
  have hl := congrArg List.length h
  rw [List.length_append] at hl
  exact ⟨by omega, by omega⟩

/-- An EA field of a memory mode has 1 to 3 bytes (R82). -/
theorem mem_length (sz : Size) (m : MemEa) : 1 ≤ (m.encode sz).length ∧ (m.encode sz).length ≤ 3 := by
  cases m <;> exact ⟨Nat.le_of_ble_eq_true rfl, Nat.le_of_ble_eq_true rfl⟩

/-- An EA field of a destination has 1 to 3 bytes (R82). -/
theorem dst_length (sz : Size) (d : DstEa) : 1 ≤ (d.encode sz).length ∧ (d.encode sz).length ≤ 3 := by
  cases d
  · exact ⟨Nat.le_of_ble_eq_true rfl, Nat.le_of_ble_eq_true rfl⟩
  · exact mem_length _ _

/-- An EA field of an immediate has 2 or 3 bytes (R82). -/
theorem imm_length (i : ImmEa) : 1 ≤ i.encode.length ∧ i.encode.length ≤ 3 := by
  cases i <;> exact ⟨Nat.le_of_ble_eq_true rfl, Nat.le_of_ble_eq_true rfl⟩

/-- An EA field of a source has 1 to 3 bytes (R82). -/
theorem src_length (sz : Size) (s : SrcEa) : 1 ≤ (s.encode sz).length ∧ (s.encode sz).length ≤ 3 := by
  cases s
  · exact ⟨Nat.le_of_ble_eq_true rfl, Nat.le_of_ble_eq_true rfl⟩
  · exact mem_length _ _
  · exact imm_length _

theorem eaRn (sz : Size) (r : Reg) : Statement (.eaRn sz r) := of_length rfl (Nat.le_of_ble_eq_true rfl) (Nat.le_of_ble_eq_true rfl)

theorem eaInd (sz : Size) (r : Reg) : Statement (.eaInd sz r) := of_length rfl (Nat.le_of_ble_eq_true rfl) (Nat.le_of_ble_eq_true rfl)

theorem eaDisp8 (sz : Size) (r : Reg) (d : Byte) : Statement (.eaDisp8 sz r d) := of_length rfl (Nat.le_of_ble_eq_true rfl) (Nat.le_of_ble_eq_true rfl)

theorem eaDisp16 (sz : Size) (r : Reg) (d : Word) : Statement (.eaDisp16 sz r d) := of_length rfl (Nat.le_of_ble_eq_true rfl) (Nat.le_of_ble_eq_true rfl)

theorem eaPreDec (sz : Size) (r : Reg) : Statement (.eaPreDec sz r) := of_length rfl (Nat.le_of_ble_eq_true rfl) (Nat.le_of_ble_eq_true rfl)

theorem eaPostInc (sz : Size) (r : Reg) : Statement (.eaPostInc sz r) := of_length rfl (Nat.le_of_ble_eq_true rfl) (Nat.le_of_ble_eq_true rfl)

theorem eaAbs8 (sz : Size) (a : Byte) : Statement (.eaAbs8 sz a) := of_length rfl (Nat.le_of_ble_eq_true rfl) (Nat.le_of_ble_eq_true rfl)

theorem eaAbs16 (sz : Size) (a : Word) : Statement (.eaAbs16 sz a) := of_length rfl (Nat.le_of_ble_eq_true rfl) (Nat.le_of_ble_eq_true rfl)

theorem eaImm8 (v : Byte) : Statement (.eaImm8 v) := of_length rfl (Nat.le_of_ble_eq_true rfl) (Nat.le_of_ble_eq_true rfl)

theorem eaImm16 (v : Word) : Statement (.eaImm16 v) := of_length rfl (Nat.le_of_ble_eq_true rfl) (Nat.le_of_ble_eq_true rfl)

theorem movGLoad (sz : Size) (src : SrcEa) (d : Reg) : Statement (.movGLoad sz src d) :=
  of_field rfl (src_length sz src) (Nat.le_of_ble_eq_true rfl)

theorem movGStore (sz : Size) (s : Reg) (m : MemEa) : Statement (.movGStore sz s m) :=
  of_field rfl (mem_length sz m) (Nat.le_of_ble_eq_true rfl)

theorem movGImm8 (sz : Size) (v : Byte) (m : MemEa) : Statement (.movGImm8 sz v m) :=
  of_field rfl (mem_length sz m) (Nat.le_of_ble_eq_true rfl)

theorem movGImm16 (v : Word) (m : MemEa) : Statement (.movGImm16 v m) :=
  of_field rfl (mem_length .word m) (Nat.le_of_ble_eq_true rfl)

theorem ldm (list : Byte) : Statement (.ldm list) := of_length rfl (Nat.le_of_ble_eq_true rfl) (Nat.le_of_ble_eq_true rfl)

theorem stm (list : Byte) : Statement (.stm list) := of_length rfl (Nat.le_of_ble_eq_true rfl) (Nat.le_of_ble_eq_true rfl)

theorem xch (s d : Reg) : Statement (.xch s d) := of_length rfl (Nat.le_of_ble_eq_true rfl) (Nat.le_of_ble_eq_true rfl)

theorem swap (d : Reg) : Statement (.swap d) := of_length rfl (Nat.le_of_ble_eq_true rfl) (Nat.le_of_ble_eq_true rfl)

theorem movtpe (s : Reg) (m : MemEa) : Statement (.movtpe s m) :=
  of_field rfl (mem_length .byte m) (Nat.le_of_ble_eq_true rfl)

theorem movfpe (m : MemEa) (d : Reg) : Statement (.movfpe m d) :=
  of_field rfl (mem_length .byte m) (Nat.le_of_ble_eq_true rfl)

theorem addG (sz : Size) (src : SrcEa) (d : Reg) : Statement (.addG sz src d) :=
  of_field rfl (src_length sz src) (Nat.le_of_ble_eq_true rfl)

theorem addQ1 (sz : Size) (dst : DstEa) : Statement (.addQ1 sz dst) :=
  of_field rfl (dst_length sz dst) (Nat.le_of_ble_eq_true rfl)

theorem addQ2 (sz : Size) (dst : DstEa) : Statement (.addQ2 sz dst) :=
  of_field rfl (dst_length sz dst) (Nat.le_of_ble_eq_true rfl)

theorem addQm1 (sz : Size) (dst : DstEa) : Statement (.addQm1 sz dst) :=
  of_field rfl (dst_length sz dst) (Nat.le_of_ble_eq_true rfl)

theorem addQm2 (sz : Size) (dst : DstEa) : Statement (.addQm2 sz dst) :=
  of_field rfl (dst_length sz dst) (Nat.le_of_ble_eq_true rfl)

theorem adds (sz : Size) (src : SrcEa) (d : Reg) : Statement (.adds sz src d) :=
  of_field rfl (src_length sz src) (Nat.le_of_ble_eq_true rfl)

theorem addx (sz : Size) (src : SrcEa) (d : Reg) : Statement (.addx sz src d) :=
  of_field rfl (src_length sz src) (Nat.le_of_ble_eq_true rfl)

theorem dadd (s d : Reg) : Statement (.dadd s d) := of_length rfl (Nat.le_of_ble_eq_true rfl) (Nat.le_of_ble_eq_true rfl)

theorem sub (sz : Size) (src : SrcEa) (d : Reg) : Statement (.sub sz src d) :=
  of_field rfl (src_length sz src) (Nat.le_of_ble_eq_true rfl)

theorem subs (sz : Size) (src : SrcEa) (d : Reg) : Statement (.subs sz src d) :=
  of_field rfl (src_length sz src) (Nat.le_of_ble_eq_true rfl)

theorem subx (sz : Size) (src : SrcEa) (d : Reg) : Statement (.subx sz src d) :=
  of_field rfl (src_length sz src) (Nat.le_of_ble_eq_true rfl)

theorem dsub (s d : Reg) : Statement (.dsub s d) := of_length rfl (Nat.le_of_ble_eq_true rfl) (Nat.le_of_ble_eq_true rfl)

theorem mulxu (sz : Size) (src : SrcEa) (d : Reg) : Statement (.mulxu sz src d) :=
  of_field rfl (src_length sz src) (Nat.le_of_ble_eq_true rfl)

theorem divxu (sz : Size) (src : SrcEa) (d : Reg) : Statement (.divxu sz src d) :=
  of_field rfl (src_length sz src) (Nat.le_of_ble_eq_true rfl)

theorem cmpG (sz : Size) (src : SrcEa) (d : Reg) : Statement (.cmpG sz src d) :=
  of_field rfl (src_length sz src) (Nat.le_of_ble_eq_true rfl)

theorem cmpGImm8 (v : Byte) (m : MemEa) : Statement (.cmpGImm8 v m) :=
  of_field rfl (mem_length .byte m) (Nat.le_of_ble_eq_true rfl)

theorem cmpGImm16 (v : Word) (m : MemEa) : Statement (.cmpGImm16 v m) :=
  of_field rfl (mem_length .word m) (Nat.le_of_ble_eq_true rfl)

theorem exts (d : Reg) : Statement (.exts d) := of_length rfl (Nat.le_of_ble_eq_true rfl) (Nat.le_of_ble_eq_true rfl)

theorem extu (d : Reg) : Statement (.extu d) := of_length rfl (Nat.le_of_ble_eq_true rfl) (Nat.le_of_ble_eq_true rfl)

theorem tst (sz : Size) (dst : DstEa) : Statement (.tst sz dst) :=
  of_field rfl (dst_length sz dst) (Nat.le_of_ble_eq_true rfl)

theorem neg (sz : Size) (dst : DstEa) : Statement (.neg sz dst) :=
  of_field rfl (dst_length sz dst) (Nat.le_of_ble_eq_true rfl)

theorem clr (sz : Size) (dst : DstEa) : Statement (.clr sz dst) :=
  of_field rfl (dst_length sz dst) (Nat.le_of_ble_eq_true rfl)

theorem tas (dst : DstEa) : Statement (.tas dst) :=
  of_field rfl (dst_length .byte dst) (Nat.le_of_ble_eq_true rfl)

theorem shal (sz : Size) (dst : DstEa) : Statement (.shal sz dst) :=
  of_field rfl (dst_length sz dst) (Nat.le_of_ble_eq_true rfl)

theorem shar (sz : Size) (dst : DstEa) : Statement (.shar sz dst) :=
  of_field rfl (dst_length sz dst) (Nat.le_of_ble_eq_true rfl)

theorem shll (sz : Size) (dst : DstEa) : Statement (.shll sz dst) :=
  of_field rfl (dst_length sz dst) (Nat.le_of_ble_eq_true rfl)

theorem shlr (sz : Size) (dst : DstEa) : Statement (.shlr sz dst) :=
  of_field rfl (dst_length sz dst) (Nat.le_of_ble_eq_true rfl)

theorem rotl (sz : Size) (dst : DstEa) : Statement (.rotl sz dst) :=
  of_field rfl (dst_length sz dst) (Nat.le_of_ble_eq_true rfl)

theorem rotr (sz : Size) (dst : DstEa) : Statement (.rotr sz dst) :=
  of_field rfl (dst_length sz dst) (Nat.le_of_ble_eq_true rfl)

theorem rotxl (sz : Size) (dst : DstEa) : Statement (.rotxl sz dst) :=
  of_field rfl (dst_length sz dst) (Nat.le_of_ble_eq_true rfl)

theorem rotxr (sz : Size) (dst : DstEa) : Statement (.rotxr sz dst) :=
  of_field rfl (dst_length sz dst) (Nat.le_of_ble_eq_true rfl)

theorem and (sz : Size) (src : SrcEa) (d : Reg) : Statement (.and sz src d) :=
  of_field rfl (src_length sz src) (Nat.le_of_ble_eq_true rfl)

theorem or (sz : Size) (src : SrcEa) (d : Reg) : Statement (.or sz src d) :=
  of_field rfl (src_length sz src) (Nat.le_of_ble_eq_true rfl)

theorem xor (sz : Size) (src : SrcEa) (d : Reg) : Statement (.xor sz src d) :=
  of_field rfl (src_length sz src) (Nat.le_of_ble_eq_true rfl)

theorem not (sz : Size) (dst : DstEa) : Statement (.not sz dst) :=
  of_field rfl (dst_length sz dst) (Nat.le_of_ble_eq_true rfl)

theorem bsetImm (sz : Size) (k : BitVec 4) (dst : DstEa) : Statement (.bsetImm sz k dst) :=
  of_field rfl (dst_length sz dst) (Nat.le_of_ble_eq_true rfl)

theorem bsetReg (sz : Size) (s : Reg) (dst : DstEa) : Statement (.bsetReg sz s dst) :=
  of_field rfl (dst_length sz dst) (Nat.le_of_ble_eq_true rfl)

theorem bclrImm (sz : Size) (k : BitVec 4) (dst : DstEa) : Statement (.bclrImm sz k dst) :=
  of_field rfl (dst_length sz dst) (Nat.le_of_ble_eq_true rfl)

theorem bclrReg (sz : Size) (s : Reg) (dst : DstEa) : Statement (.bclrReg sz s dst) :=
  of_field rfl (dst_length sz dst) (Nat.le_of_ble_eq_true rfl)

theorem bnotImm (sz : Size) (k : BitVec 4) (dst : DstEa) : Statement (.bnotImm sz k dst) :=
  of_field rfl (dst_length sz dst) (Nat.le_of_ble_eq_true rfl)

theorem bnotReg (sz : Size) (s : Reg) (dst : DstEa) : Statement (.bnotReg sz s dst) :=
  of_field rfl (dst_length sz dst) (Nat.le_of_ble_eq_true rfl)

theorem btstImm (sz : Size) (k : BitVec 4) (dst : DstEa) : Statement (.btstImm sz k dst) :=
  of_field rfl (dst_length sz dst) (Nat.le_of_ble_eq_true rfl)

theorem btstReg (sz : Size) (s : Reg) (dst : DstEa) : Statement (.btstReg sz s dst) :=
  of_field rfl (dst_length sz dst) (Nat.le_of_ble_eq_true rfl)

theorem movE (v : Byte) (d : Reg) : Statement (.movE v d) := of_length rfl (Nat.le_of_ble_eq_true rfl) (Nat.le_of_ble_eq_true rfl)

theorem movI (v : Word) (d : Reg) : Statement (.movI v d) := of_length rfl (Nat.le_of_ble_eq_true rfl) (Nat.le_of_ble_eq_true rfl)

theorem movLB (a : Byte) (d : Reg) : Statement (.movLB a d) := of_length rfl (Nat.le_of_ble_eq_true rfl) (Nat.le_of_ble_eq_true rfl)

theorem movLW (a : Byte) (d : Reg) : Statement (.movLW a d) := of_length rfl (Nat.le_of_ble_eq_true rfl) (Nat.le_of_ble_eq_true rfl)

theorem movSB (s : Reg) (a : Byte) : Statement (.movSB s a) := of_length rfl (Nat.le_of_ble_eq_true rfl) (Nat.le_of_ble_eq_true rfl)

theorem movSW (s : Reg) (a : Byte) : Statement (.movSW s a) := of_length rfl (Nat.le_of_ble_eq_true rfl) (Nat.le_of_ble_eq_true rfl)

theorem movFLoadB (x : Byte) (d : Reg) : Statement (.movFLoadB x d) := of_length rfl (Nat.le_of_ble_eq_true rfl) (Nat.le_of_ble_eq_true rfl)

theorem movFLoadW (x : Byte) (d : Reg) : Statement (.movFLoadW x d) := of_length rfl (Nat.le_of_ble_eq_true rfl) (Nat.le_of_ble_eq_true rfl)

theorem movFStoreB (s : Reg) (x : Byte) : Statement (.movFStoreB s x) := of_length rfl (Nat.le_of_ble_eq_true rfl) (Nat.le_of_ble_eq_true rfl)

theorem movFStoreW (s : Reg) (x : Byte) : Statement (.movFStoreW s x) := of_length rfl (Nat.le_of_ble_eq_true rfl) (Nat.le_of_ble_eq_true rfl)

theorem cmpE (v : Byte) (d : Reg) : Statement (.cmpE v d) := of_length rfl (Nat.le_of_ble_eq_true rfl) (Nat.le_of_ble_eq_true rfl)

theorem cmpI (v : Word) (d : Reg) : Statement (.cmpI v d) := of_length rfl (Nat.le_of_ble_eq_true rfl) (Nat.le_of_ble_eq_true rfl)

theorem bra8 (x : Byte) : Statement (.bra8 x) := of_length rfl (Nat.le_of_ble_eq_true rfl) (Nat.le_of_ble_eq_true rfl)

theorem brn8 (x : Byte) : Statement (.brn8 x) := of_length rfl (Nat.le_of_ble_eq_true rfl) (Nat.le_of_ble_eq_true rfl)

theorem bhi8 (x : Byte) : Statement (.bhi8 x) := of_length rfl (Nat.le_of_ble_eq_true rfl) (Nat.le_of_ble_eq_true rfl)

theorem bls8 (x : Byte) : Statement (.bls8 x) := of_length rfl (Nat.le_of_ble_eq_true rfl) (Nat.le_of_ble_eq_true rfl)

theorem bcc8 (x : Byte) : Statement (.bcc8 x) := of_length rfl (Nat.le_of_ble_eq_true rfl) (Nat.le_of_ble_eq_true rfl)

theorem bcs8 (x : Byte) : Statement (.bcs8 x) := of_length rfl (Nat.le_of_ble_eq_true rfl) (Nat.le_of_ble_eq_true rfl)

theorem bne8 (x : Byte) : Statement (.bne8 x) := of_length rfl (Nat.le_of_ble_eq_true rfl) (Nat.le_of_ble_eq_true rfl)

theorem beq8 (x : Byte) : Statement (.beq8 x) := of_length rfl (Nat.le_of_ble_eq_true rfl) (Nat.le_of_ble_eq_true rfl)

theorem bvc8 (x : Byte) : Statement (.bvc8 x) := of_length rfl (Nat.le_of_ble_eq_true rfl) (Nat.le_of_ble_eq_true rfl)

theorem bvs8 (x : Byte) : Statement (.bvs8 x) := of_length rfl (Nat.le_of_ble_eq_true rfl) (Nat.le_of_ble_eq_true rfl)

theorem bpl8 (x : Byte) : Statement (.bpl8 x) := of_length rfl (Nat.le_of_ble_eq_true rfl) (Nat.le_of_ble_eq_true rfl)

theorem bmi8 (x : Byte) : Statement (.bmi8 x) := of_length rfl (Nat.le_of_ble_eq_true rfl) (Nat.le_of_ble_eq_true rfl)

theorem bge8 (x : Byte) : Statement (.bge8 x) := of_length rfl (Nat.le_of_ble_eq_true rfl) (Nat.le_of_ble_eq_true rfl)

theorem blt8 (x : Byte) : Statement (.blt8 x) := of_length rfl (Nat.le_of_ble_eq_true rfl) (Nat.le_of_ble_eq_true rfl)

theorem bgt8 (x : Byte) : Statement (.bgt8 x) := of_length rfl (Nat.le_of_ble_eq_true rfl) (Nat.le_of_ble_eq_true rfl)

theorem ble8 (x : Byte) : Statement (.ble8 x) := of_length rfl (Nat.le_of_ble_eq_true rfl) (Nat.le_of_ble_eq_true rfl)

theorem bra16 (x : Word) : Statement (.bra16 x) := of_length rfl (Nat.le_of_ble_eq_true rfl) (Nat.le_of_ble_eq_true rfl)

theorem brn16 (x : Word) : Statement (.brn16 x) := of_length rfl (Nat.le_of_ble_eq_true rfl) (Nat.le_of_ble_eq_true rfl)

theorem bhi16 (x : Word) : Statement (.bhi16 x) := of_length rfl (Nat.le_of_ble_eq_true rfl) (Nat.le_of_ble_eq_true rfl)

theorem bls16 (x : Word) : Statement (.bls16 x) := of_length rfl (Nat.le_of_ble_eq_true rfl) (Nat.le_of_ble_eq_true rfl)

theorem bcc16 (x : Word) : Statement (.bcc16 x) := of_length rfl (Nat.le_of_ble_eq_true rfl) (Nat.le_of_ble_eq_true rfl)

theorem bcs16 (x : Word) : Statement (.bcs16 x) := of_length rfl (Nat.le_of_ble_eq_true rfl) (Nat.le_of_ble_eq_true rfl)

theorem bne16 (x : Word) : Statement (.bne16 x) := of_length rfl (Nat.le_of_ble_eq_true rfl) (Nat.le_of_ble_eq_true rfl)

theorem beq16 (x : Word) : Statement (.beq16 x) := of_length rfl (Nat.le_of_ble_eq_true rfl) (Nat.le_of_ble_eq_true rfl)

theorem bvc16 (x : Word) : Statement (.bvc16 x) := of_length rfl (Nat.le_of_ble_eq_true rfl) (Nat.le_of_ble_eq_true rfl)

theorem bvs16 (x : Word) : Statement (.bvs16 x) := of_length rfl (Nat.le_of_ble_eq_true rfl) (Nat.le_of_ble_eq_true rfl)

theorem bpl16 (x : Word) : Statement (.bpl16 x) := of_length rfl (Nat.le_of_ble_eq_true rfl) (Nat.le_of_ble_eq_true rfl)

theorem bmi16 (x : Word) : Statement (.bmi16 x) := of_length rfl (Nat.le_of_ble_eq_true rfl) (Nat.le_of_ble_eq_true rfl)

theorem bge16 (x : Word) : Statement (.bge16 x) := of_length rfl (Nat.le_of_ble_eq_true rfl) (Nat.le_of_ble_eq_true rfl)

theorem blt16 (x : Word) : Statement (.blt16 x) := of_length rfl (Nat.le_of_ble_eq_true rfl) (Nat.le_of_ble_eq_true rfl)

theorem bgt16 (x : Word) : Statement (.bgt16 x) := of_length rfl (Nat.le_of_ble_eq_true rfl) (Nat.le_of_ble_eq_true rfl)

theorem ble16 (x : Word) : Statement (.ble16 x) := of_length rfl (Nat.le_of_ble_eq_true rfl) (Nat.le_of_ble_eq_true rfl)

theorem jmpInd (n : Reg) : Statement (.jmpInd n) := of_length rfl (Nat.le_of_ble_eq_true rfl) (Nat.le_of_ble_eq_true rfl)

theorem jmpAbs (a : Word) : Statement (.jmpAbs a) := of_length rfl (Nat.le_of_ble_eq_true rfl) (Nat.le_of_ble_eq_true rfl)

theorem jmpDisp8 (n : Reg) (x : Byte) : Statement (.jmpDisp8 n x) := of_length rfl (Nat.le_of_ble_eq_true rfl) (Nat.le_of_ble_eq_true rfl)

theorem jmpDisp16 (n : Reg) (x : Word) : Statement (.jmpDisp16 n x) := of_length rfl (Nat.le_of_ble_eq_true rfl) (Nat.le_of_ble_eq_true rfl)

theorem bsr8 (x : Byte) : Statement (.bsr8 x) := of_length rfl (Nat.le_of_ble_eq_true rfl) (Nat.le_of_ble_eq_true rfl)

theorem bsr16 (x : Word) : Statement (.bsr16 x) := of_length rfl (Nat.le_of_ble_eq_true rfl) (Nat.le_of_ble_eq_true rfl)

theorem jsrInd (n : Reg) : Statement (.jsrInd n) := of_length rfl (Nat.le_of_ble_eq_true rfl) (Nat.le_of_ble_eq_true rfl)

theorem jsrAbs (a : Word) : Statement (.jsrAbs a) := of_length rfl (Nat.le_of_ble_eq_true rfl) (Nat.le_of_ble_eq_true rfl)

theorem jsrDisp8 (n : Reg) (x : Byte) : Statement (.jsrDisp8 n x) := of_length rfl (Nat.le_of_ble_eq_true rfl) (Nat.le_of_ble_eq_true rfl)

theorem jsrDisp16 (n : Reg) (x : Word) : Statement (.jsrDisp16 n x) := of_length rfl (Nat.le_of_ble_eq_true rfl) (Nat.le_of_ble_eq_true rfl)

theorem rts : Statement (.rts) := of_length rfl (Nat.le_of_ble_eq_true rfl) (Nat.le_of_ble_eq_true rfl)

theorem rtd8 (v : Byte) : Statement (.rtd8 v) := of_length rfl (Nat.le_of_ble_eq_true rfl) (Nat.le_of_ble_eq_true rfl)

theorem rtd16 (v : Word) : Statement (.rtd16 v) := of_length rfl (Nat.le_of_ble_eq_true rfl) (Nat.le_of_ble_eq_true rfl)

theorem scbF (n : Reg) (x : Byte) : Statement (.scbF n x) := of_length rfl (Nat.le_of_ble_eq_true rfl) (Nat.le_of_ble_eq_true rfl)

theorem scbNe (n : Reg) (x : Byte) : Statement (.scbNe n x) := of_length rfl (Nat.le_of_ble_eq_true rfl) (Nat.le_of_ble_eq_true rfl)

theorem scbEq (n : Reg) (x : Byte) : Statement (.scbEq n x) := of_length rfl (Nat.le_of_ble_eq_true rfl) (Nat.le_of_ble_eq_true rfl)

theorem pjmpAbs (p : Byte) (a : Word) : Statement (.pjmpAbs p a) := of_length rfl (Nat.le_of_ble_eq_true rfl) (Nat.le_of_ble_eq_true rfl)

theorem pjmpInd (n : Reg) : Statement (.pjmpInd n) := of_length rfl (Nat.le_of_ble_eq_true rfl) (Nat.le_of_ble_eq_true rfl)

theorem pjsrAbs (p : Byte) (a : Word) : Statement (.pjsrAbs p a) := of_length rfl (Nat.le_of_ble_eq_true rfl) (Nat.le_of_ble_eq_true rfl)

theorem pjsrInd (n : Reg) : Statement (.pjsrInd n) := of_length rfl (Nat.le_of_ble_eq_true rfl) (Nat.le_of_ble_eq_true rfl)

theorem prts : Statement (.prts) := of_length rfl (Nat.le_of_ble_eq_true rfl) (Nat.le_of_ble_eq_true rfl)

theorem prtd8 (v : Byte) : Statement (.prtd8 v) := of_length rfl (Nat.le_of_ble_eq_true rfl) (Nat.le_of_ble_eq_true rfl)

theorem prtd16 (v : Word) : Statement (.prtd16 v) := of_length rfl (Nat.le_of_ble_eq_true rfl) (Nat.le_of_ble_eq_true rfl)

theorem trapa (v : BitVec 4) : Statement (.trapa v) := of_length rfl (Nat.le_of_ble_eq_true rfl) (Nat.le_of_ble_eq_true rfl)

theorem trapVs : Statement (.trapVs) := of_length rfl (Nat.le_of_ble_eq_true rfl) (Nat.le_of_ble_eq_true rfl)

theorem rte : Statement (.rte) := of_length rfl (Nat.le_of_ble_eq_true rfl) (Nat.le_of_ble_eq_true rfl)

theorem link8 (v : Byte) : Statement (.link8 v) := of_length rfl (Nat.le_of_ble_eq_true rfl) (Nat.le_of_ble_eq_true rfl)

theorem link16 (v : Word) : Statement (.link16 v) := of_length rfl (Nat.le_of_ble_eq_true rfl) (Nat.le_of_ble_eq_true rfl)

theorem unlk : Statement (.unlk) := of_length rfl (Nat.le_of_ble_eq_true rfl) (Nat.le_of_ble_eq_true rfl)

theorem sleep : Statement (.sleep) := of_length rfl (Nat.le_of_ble_eq_true rfl) (Nat.le_of_ble_eq_true rfl)

theorem ldc (sz : Size) (src : SrcEa) (cr : CtlReg) : Statement (.ldc sz src cr) :=
  of_field rfl (src_length sz src) (Nat.le_of_ble_eq_true rfl)

theorem stc (sz : Size) (cr : CtlReg) (dst : DstEa) : Statement (.stc sz cr dst) :=
  of_field rfl (dst_length sz dst) (Nat.le_of_ble_eq_true rfl)

theorem andc (imm : ImmEa) (cr : CtlReg) : Statement (.andc imm cr) :=
  of_field rfl (imm_length imm) (Nat.le_of_ble_eq_true rfl)

theorem orc (imm : ImmEa) (cr : CtlReg) : Statement (.orc imm cr) :=
  of_field rfl (imm_length imm) (Nat.le_of_ble_eq_true rfl)

theorem xorc (imm : ImmEa) (cr : CtlReg) : Statement (.xorc imm cr) :=
  of_field rfl (imm_length imm) (Nat.le_of_ble_eq_true rfl)

theorem nop : Statement (.nop) := of_length rfl (Nat.le_of_ble_eq_true rfl) (Nat.le_of_ble_eq_true rfl)

end Sys2Proof.Laws.EncodedLength
end

