-- ==== Sys2Proof/Machine/Events.lean ====
section
/-! DEFINITION. What the platform can do to the machine between two steps: reset (70_reset_and_hazards.md R330) and the
acceptance of an interrupt (60_exceptions.md R310). The baseline machine has no source of either (R310, D25), so `step`
never performs them (notes/assumptions/13.md). -/

namespace Sys2Proof.Machine

/-- Every register `Reset()` leaves unspecified gets a free value: R0 to R7, N, Z, V, C, BR, EP, DP, TP and CP (R330,
10_state.md R37). -/
def State.scramble (s : State) : State :=
  { s with
    regs := #v[Config.freeWord s.draws, Config.freeWord (s.draws + 1), Config.freeWord (s.draws + 2),
      Config.freeWord (s.draws + 3), Config.freeWord (s.draws + 4), Config.freeWord (s.draws + 5),
      Config.freeWord (s.draws + 6), Config.freeWord (s.draws + 7)]
    sr := { s.sr with flags :=
      { n := Config.freeBit (s.draws + 8), z := Config.freeBit (s.draws + 9),
        v := Config.freeBit (s.draws + 10), c := Config.freeBit (s.draws + 11) } }
    br := Config.freeByte (s.draws + 12)
    ep := Config.freeByte (s.draws + 13)
    dp := Config.freeByte (s.draws + 14)
    tp := Config.freeByte (s.draws + 15)
    cp := Config.freeByte (s.draws + 16)
    draws := s.draws + 17 }

/-- `Reset()` (R330): T cleared, the mask 7, PC and in maximum mode CP from vector 0, normal running; nothing is pushed
and memory stays. -/
def resetSequence (s : State) : Except Halt State := do
  let s1 := s.scramble
  let s2 := s1.setSr { s1.sr with t := false, imask := 7 }
  let s3 ← inEntry (loadVector Config.vecReset s2)
  pure (s3.setRunState .running)

/-- Whether a request is accepted: its level is above I2-I0; NMI is level 8 (60_exceptions.md R310). -/
def acceptsLevel (level : Nat) (s : State) : Bool := decide (s.sr.imask.toNat < level)

/-- The mask after acceptance: the level, and 7 for NMI (R297, R310). -/
def maskOfLevel (level : Nat) : BitVec 3 := if 7 ≤ level then 7 else BitVec.ofNat 3 level

/-- A request of a level with its vector entry, sampled between two instructions (R310, R315): accepted, it takes the
exception with the next instruction's address and raises the mask; otherwise nothing happens. -/
def acceptInterrupt (entry level : Nat) (s : State) : Outcome :=
  if acceptsLevel level s then
    match takeException entry s.pc s with
    | .ok t => .next (t.setSr { t.sr with imask := maskOfLevel level })
    | .error h => ofEntry (.error h)
  else .next s

/-- The non-maskable interrupt (R310). -/
def acceptNmi (s : State) : Outcome := acceptInterrupt Config.vecNmi 8 s

end Sys2Proof.Machine
end

