-- ==== Sys2Proof/Machine/Timing.lean ====
section
/-! DEFINITION. The state counts of 70_reset_and_hazards.md R345 to R355, as functions of the instruction. No program can
observe them (R340) and nothing in `step` reads them (notes/assumptions/27.md). -/

namespace Sys2Proof.Machine

/-- The two classes of memory of R346: on-chip memory, and what is slower (off-chip memory, and for operands the
on-chip supporting modules). -/
inductive MemClass where
  | onChip
  | slow
deriving DecidableEq, Repr

/-- What an instruction did, where the tables have a row for each (R349, R350, R351). -/
inductive Situation where
  /-- Branch or trap not taken; no special outcome. -/
  | plain
  /-- Branch or trap taken. -/
  | taken
  /-- SCB ended by its count (R350). -/
  | countEnded
  /-- DIVXU by zero (R349). -/
  | zeroDivide
  /-- DIVXU with a quotient that does not fit (R349). -/
  | overflow
deriving DecidableEq, Repr

/-- The entries of the tables for one instruction. -/
structure Cost where
  /-- The cell of Table A-7; the least one for MOVTPE and MOVFPE. -/
  least : Nat
  /-- The cell of Table A-7; the greatest one for MOVTPE and MOVFPE. -/
  most : Nat
  /-- The size of the operand. -/
  size : Size
  /-- I: the bytes read and written in memory. -/
  i : Nat
  /-- J + K: the instruction bytes fetched. -/
  jk : Nat
  /-- The cell of Table A-8 for an even start address. -/
  even : Nat
  /-- The cell of Table A-8 for an odd start address. -/
  odd : Nat
deriving DecidableEq, Repr

/-- The number of bytes of an operand size. -/
def sizeBytes : Size → Nat
  | .byte => 1
  | .word => 2

/-- The state more that `@(d:16,Rn)`, `@Rn+` and `@aa:16` cost (R348). -/
def slowMode : MemEa → Nat
  | .disp16 _ _ => 1
  | .postInc _ => 1
  | .abs16 _ => 1
  | _ => 0

/-- Whether the EA field of a memory mode has two bytes: the modes whose adjustment is for an odd start (R353). -/
def evenField : MemEa → Bool
  | .disp8 _ _ => true
  | .abs8 _ => true
  | _ => false

/-- A row for an operand in memory: cell, accesses, J + K, and the adjustments `k` of R353. -/
def memCost (cell : Nat) (sz : Size) (accesses k : Nat) (m : MemEa) (n : Nat) : Cost where
  least := cell + slowMode m
  most := cell + slowMode m
  size := sz
  i := accesses * sizeBytes sz
  jk := n
  even := if evenField m then 0 else k
  odd := if evenField m then k else 0

/-- A row for a register or immediate operand: no memory, no adjustment (R353). -/
def regCost (cell : Nat) (sz : Size) (n : Nat) : Cost where
  least := cell
  most := cell
  size := sz
  i := 0
  jk := n
  even := 0
  odd := 0

/-- A row with `<EAs>`: the cells of `Rn`, of `@Rn` and of the immediate (R348). -/
def srcCost (rn mem imm : Nat) (sz : Size) (src : SrcEa) (n : Nat) : Cost :=
  match src with
  | .reg _ => regCost rn sz n
  | .mem m => memCost mem sz 1 1 m n
  | .imm _ => regCost imm sz n

/-- A row with `<EAd>`: the cells of `Rn` and of `@Rn`, and how often memory is accessed (R348). -/
def dstCost (rn mem accesses : Nat) (sz : Size) (dst : DstEa) (n : Nat) : Cost :=
  match dst with
  | .reg _ => regCost rn sz n
  | .mem m => memCost mem sz accesses 1 m n

/-- MOVTPE and MOVFPE: a range of states, I = 0 and one state of adjustment (R348, R353). -/
def eClockCost (m : MemEa) (n : Nat) : Cost where
  least := 13 + slowMode m
  most := 20 + slowMode m
  size := .byte
  i := 0
  jk := n
  even := 1
  odd := 1

/-- A row of Tables A-7 (5) and (6): states, I, J + K, and the adjustment for an odd start (R350 to R352). All its traffic is
of words, as in Example 2 (R354; DEDUCED, notes/assumptions/52.md). -/
def flowCost (cell i jk odd : Nat) : Cost where
  least := cell
  most := cell
  size := .word
  i := i
  jk := jk
  even := 0
  odd := odd

/-- Bcc (R350, R352); the adjustment of 0 when not taken is the model's (notes/assumptions/50.md). -/
def bccCost (long : Nat) : Situation → Cost
  | .taken => flowCost 7 0 (5 + long) 1
  | _ => flowCost 3 0 (2 + long) 0

/-- SCB (R350, R352); the adjustment of 0 when not taken is the model's (notes/assumptions/50.md). -/
def scbCost : Situation → Cost
  | .taken => flowCost 8 0 6 1
  | .countEnded => flowCost 4 0 3 0
  | _ => flowCost 3 0 3 0

/-- The cells of one mode or the other. -/
def byMode (mode : Mode) (min max : Nat) : Nat :=
  match mode with
  | .min => min
  | .max => max

/-- DIVXU (R348, R349). On a zero divide I counts the exception entry besides the operand. R346 does not say which of its size
rows such a mixed count takes; here the whole I of DIVXU.B takes the byte row, by the size of the operand (DESIGN CHOICE,
unsafe for a claim about time; notes/assumptions/52.md). -/
def divxuCost (mode : Mode) (sit : Situation) (sz : Size) (src : SrcEa) (n : Nat) : Cost :=
  match sit with
  | .zeroDivide =>
    let imm := match sz with
      | .byte => 21
      | .word => 27
    let c := srcCost (byMode mode 20 25) (byMode mode 23 28) imm sz src n
    { c with i := c.i + byMode mode 6 10 }
  | .overflow => srcCost 8 11 (match sz with | .byte => 9 | .word => 10) sz src n
  | _ =>
    match sz with
    | .byte => srcCost 20 23 21 sz src n
    | .word => srcCost 26 29 28 sz src n

/-- By operand size. -/
def bySize (sz : Size) (b w : Nat) : Nat :=
  match sz with
  | .byte => b
  | .word => w

/-- The number of registers in the list of LDM or STM (R350). -/
def listLength (list : Byte) : Nat := ((List.range 8).filter fun k => list.getLsbD k).length

/-- The tables' row of an instruction; `none` where no table has one (an unassigned OP field). MOV:G.W #xx:8 has no row
either and is read by the pattern of its neighbours (R348; DEDUCED). R352 gives no adjustment for LDM, STM, LINK, UNLK, NOP
and SLEEP, nor for Bcc, SCB and TRAP/VS not taken; the 0 here is the model's DESIGN CHOICE (unsafe for a claim about time;
notes/assumptions/50.md). -/
def cost (mode : Mode) (sit : Situation) (ins : Instr) : Option Cost :=
  let n := (encode ins).length
  match ins with
  | .eaRn _ _ => none
  | .eaInd _ _ => none
  | .eaDisp8 _ _ _ => none
  | .eaDisp16 _ _ _ => none
  | .eaPreDec _ _ => none
  | .eaPostInc _ _ => none
  | .eaAbs8 _ _ => none
  | .eaAbs16 _ _ => none
  | .eaImm8 _ => none
  | .eaImm16 _ => none
  | .movGLoad sz src _ => some (srcCost 2 5 (bySize sz 3 4) sz src n)
  | .movGStore sz _ m => some (memCost 5 sz 1 1 m n)
  | .movGImm8 sz _ m => some (match sz with
    | .byte => { memCost 7 .byte 1 1 m n with even := 1, odd := 1 }
    | .word => memCost 7 .word 1 1 m n)
  | .movGImm16 _ m => some (memCost 8 .word 1 2 m n)
  | .ldm list => some (flowCost (6 + 4 * listLength list) (2 * listLength list) 2 0)
  | .stm list => some (flowCost (6 + 3 * listLength list) (2 * listLength list) 2 0)
  | .xch _ _ => some (regCost 4 .word n)
  | .swap _ => some (regCost 3 .byte n)
  | .movtpe _ m => some (eClockCost m n)
  | .movfpe m _ => some (eClockCost m n)
  | .addG sz src _ => some (srcCost 2 5 (bySize sz 3 4) sz src n)
  | .addQ1 sz dst => some (dstCost 2 7 2 sz dst n)
  | .addQ2 sz dst => some (dstCost 2 7 2 sz dst n)
  | .addQm1 sz dst => some (dstCost 2 7 2 sz dst n)
  | .addQm2 sz dst => some (dstCost 2 7 2 sz dst n)
  | .adds sz src _ => some (srcCost 3 5 (bySize sz 3 4) sz src n)
  | .addx sz src _ => some (srcCost 2 5 (bySize sz 3 4) sz src n)
  | .dadd _ _ => some (regCost 4 .byte n)
  | .sub sz src _ => some (srcCost 2 5 (bySize sz 3 4) sz src n)
  | .subs sz src _ => some (srcCost 3 5 (bySize sz 3 4) sz src n)
  | .subx sz src _ => some (srcCost 2 5 (bySize sz 3 4) sz src n)
  | .dsub _ _ => some (regCost 4 .byte n)
  | .mulxu sz src _ => some (srcCost (bySize sz 16 23) (bySize sz 19 25) (bySize sz 18 25) sz src n)
  | .divxu sz src _ => some (divxuCost mode sit sz src n)
  | .cmpG sz src _ => some (srcCost 2 5 (bySize sz 3 4) sz src n)
  | .cmpGImm8 _ m => some (memCost 6 .byte 1 1 m n)
  | .cmpGImm16 _ m => some (memCost 7 .word 1 1 m n)
  | .exts _ => some (regCost 3 .byte n)
  | .extu _ => some (regCost 3 .byte n)
  | .tst sz dst => some (dstCost 2 5 1 sz dst n)
  | .neg sz dst => some (dstCost 2 7 2 sz dst n)
  | .clr sz dst => some (dstCost 2 5 1 sz dst n)
  | .tas dst => some (dstCost 4 7 2 .byte dst n)
  | .shal sz dst => some (dstCost 2 7 2 sz dst n)
  | .shar sz dst => some (dstCost 2 7 2 sz dst n)
  | .shll sz dst => some (dstCost 2 7 2 sz dst n)
  | .shlr sz dst => some (dstCost 2 7 2 sz dst n)
  | .rotl sz dst => some (dstCost 2 7 2 sz dst n)
  | .rotr sz dst => some (dstCost 2 7 2 sz dst n)
  | .rotxl sz dst => some (dstCost 2 7 2 sz dst n)
  | .rotxr sz dst => some (dstCost 2 7 2 sz dst n)
  | .and sz src _ => some (srcCost 2 5 (bySize sz 3 4) sz src n)
  | .or sz src _ => some (srcCost 2 5 (bySize sz 3 4) sz src n)
  | .xor sz src _ => some (srcCost 2 5 (bySize sz 3 4) sz src n)
  | .not sz dst => some (dstCost 2 7 2 sz dst n)
  | .bsetImm sz _ dst => some (dstCost 4 7 2 sz dst n)
  | .bsetReg sz _ dst => some (dstCost 4 7 2 sz dst n)
  | .bclrImm sz _ dst => some (dstCost 4 7 2 sz dst n)
  | .bclrReg sz _ dst => some (dstCost 4 7 2 sz dst n)
  | .bnotImm sz _ dst => some (dstCost 4 7 2 sz dst n)
  | .bnotReg sz _ dst => some (dstCost 4 7 2 sz dst n)
  | .btstImm sz _ dst => some (dstCost 3 5 1 sz dst n)
  | .btstReg sz _ dst => some (dstCost 3 5 1 sz dst n)
  | .movE _ _ => some (regCost 2 .byte n)
  | .movI _ _ => some (regCost 3 .word n)
  | .movLB a _ => some (memCost 5 .byte 1 1 (.abs8 a) n)
  | .movLW a _ => some (memCost 5 .word 1 1 (.abs8 a) n)
  | .movSB _ a => some (memCost 5 .byte 1 1 (.abs8 a) n)
  | .movSW _ a => some (memCost 5 .word 1 1 (.abs8 a) n)
  | .movFLoadB x _ => some (memCost 5 .byte 1 1 (.disp8 6 x) n)
  | .movFLoadW x _ => some (memCost 5 .word 1 1 (.disp8 6 x) n)
  | .movFStoreB _ x => some (memCost 5 .byte 1 1 (.disp8 6 x) n)
  | .movFStoreW _ x => some (memCost 5 .word 1 1 (.disp8 6 x) n)
  | .cmpE _ _ => some (regCost 2 .byte n)
  | .cmpI _ _ => some (regCost 3 .word n)
  | .bra8 _ => some (bccCost 0 sit)
  | .brn8 _ => some (bccCost 0 sit)
  | .bhi8 _ => some (bccCost 0 sit)
  | .bls8 _ => some (bccCost 0 sit)
  | .bcc8 _ => some (bccCost 0 sit)
  | .bcs8 _ => some (bccCost 0 sit)
  | .bne8 _ => some (bccCost 0 sit)
  | .beq8 _ => some (bccCost 0 sit)
  | .bvc8 _ => some (bccCost 0 sit)
  | .bvs8 _ => some (bccCost 0 sit)
  | .bpl8 _ => some (bccCost 0 sit)
  | .bmi8 _ => some (bccCost 0 sit)
  | .bge8 _ => some (bccCost 0 sit)
  | .blt8 _ => some (bccCost 0 sit)
  | .bgt8 _ => some (bccCost 0 sit)
  | .ble8 _ => some (bccCost 0 sit)
  | .bra16 _ => some (bccCost 1 sit)
  | .brn16 _ => some (bccCost 1 sit)
  | .bhi16 _ => some (bccCost 1 sit)
  | .bls16 _ => some (bccCost 1 sit)
  | .bcc16 _ => some (bccCost 1 sit)
  | .bcs16 _ => some (bccCost 1 sit)
  | .bne16 _ => some (bccCost 1 sit)
  | .beq16 _ => some (bccCost 1 sit)
  | .bvc16 _ => some (bccCost 1 sit)
  | .bvs16 _ => some (bccCost 1 sit)
  | .bpl16 _ => some (bccCost 1 sit)
  | .bmi16 _ => some (bccCost 1 sit)
  | .bge16 _ => some (bccCost 1 sit)
  | .blt16 _ => some (bccCost 1 sit)
  | .bgt16 _ => some (bccCost 1 sit)
  | .ble16 _ => some (bccCost 1 sit)
  | .jmpInd _ => some (flowCost 6 0 5 1)
  | .jmpAbs _ => some (flowCost 7 0 5 1)
  | .jmpDisp8 _ _ => some (flowCost 7 0 5 1)
  | .jmpDisp16 _ _ => some (flowCost 8 0 6 1)
  | .bsr8 _ => some (flowCost 9 2 4 1)
  | .bsr16 _ => some (flowCost 9 2 5 1)
  | .jsrInd _ => some (flowCost 9 2 5 1)
  | .jsrAbs _ => some (flowCost 9 2 5 1)
  | .jsrDisp8 _ _ => some (flowCost 9 2 5 1)
  | .jsrDisp16 _ _ => some (flowCost 10 2 6 1)
  | .rts => some (flowCost 8 2 4 1)
  | .rtd8 _ => some (flowCost 9 2 4 1)
  | .rtd16 _ => some (flowCost 9 2 5 1)
  | .scbF _ _ => some (scbCost sit)
  | .scbNe _ _ => some (scbCost sit)
  | .scbEq _ _ => some (scbCost sit)
  | .pjmpAbs _ _ => some (flowCost 9 0 6 1)
  | .pjmpInd _ => some (flowCost 8 0 5 1)
  | .pjsrAbs _ _ => some (flowCost 15 4 6 1)
  | .pjsrInd _ => some (flowCost 13 4 5 1)
  | .prts => some (flowCost 12 4 5 1)
  | .prtd8 _ => some (flowCost 13 4 5 1)
  | .prtd16 _ => some (flowCost 13 4 6 1)
  | .trapa _ => some (flowCost (byMode mode 17 22) (byMode mode 6 10) 4 1)
  | .trapVs => some (match sit with
    | .taken => flowCost (byMode mode 18 23) (byMode mode 6 10) 4 1
    | _ => flowCost 3 0 1 0)
  | .rte => some (flowCost (byMode mode 13 15) (byMode mode 4 6) 4 1)
  | .link8 _ => some (flowCost 6 2 2 0)
  | .link16 _ => some (flowCost 7 2 3 0)
  | .unlk => some (flowCost 5 2 1 0)
  | .sleep => some (flowCost 2 0 0 0)
  | .ldc sz src _ => some (srcCost (bySize sz 3 4) (bySize sz 6 7) (bySize sz 4 6) sz src n)
  | .stc sz _ dst => some (dstCost 2 7 1 sz dst n)
  | .andc imm _ => some (match imm with
    | .imm8 _ => regCost 5 .byte n
    | .imm16 _ => regCost 9 .word n)
  | .orc imm _ => some (match imm with
    | .imm8 _ => regCost 5 .byte n
    | .imm16 _ => regCost 9 .word n)
  | .xorc imm _ => some (match imm with
    | .imm8 _ => regCost 5 .byte n
    | .imm16 _ => regCost 9 .word n)
  | .nop => some (flowCost 2 0 1 0)

/-- The number of states for a given cell of Table A-7 (R346): what the fetch and the operand cost besides it. -/
def statesOf (cell : Nat) (fetch operand : MemClass) (oddStart : Bool) (c : Cost) : Nat :=
  let a8 := if oddStart then c.odd else c.even
  match fetch, operand with
  | .onChip, .onChip => cell + a8
  | .onChip, .slow => cell + a8 + sizeBytes c.size * c.i
  | .slow, .onChip => cell + 2 * c.jk
  | .slow, .slow => cell + sizeBytes c.size * c.i + 2 * c.jk

/-- The least number of states of an instruction (R346); the only one but for MOVTPE and MOVFPE. -/
def leastStates (mode : Mode) (sit : Situation) (fetch operand : MemClass) (oddStart : Bool) (i : Instr) : Option Nat :=
  (cost mode sit i).map fun c => statesOf c.least fetch operand oddStart c

/-- The greatest number of states of an instruction (R346, R348). -/
def mostStates (mode : Mode) (sit : Situation) (fetch operand : MemClass) (oddStart : Bool) (i : Instr) : Option Nat :=
  (cost mode sit i).map fun c => statesOf c.most fetch operand oddStart c

end Sys2Proof.Machine
end

