-- ==== Sys2Proof/Safety.lean ====
section
/-! DEFINITION. What a run is, when it goes on, and the consistency of a state, in the terms the statements use. -/

namespace Sys2Proof.Machine

/-- A state is consistent: memory has its canonical form and lies inside the address space of the mode (20_memory.md
R51, R52), and the addresses marked as stored to are rising and hold a byte (R67). -/
def State.consistent (s : State) : Bool :=
  s.mem.wf
    && s.mem.all (fun c => decide (c.1 < s.mode.addressSpace))
    && decide (s.stored.Pairwise (· < ·))
    && s.stored.all (fun a => (s.mem.read a).isSome)

/-- Consistency as a proposition. -/
abbrev State.Inv (s : State) : Prop := s.consistent = true

/-- The machine goes on from `s`. -/
def Goes (s : State) : Prop := ∃ t, step s = .next t

/-- The run is over: SLEEP has been executed and nothing ends the power-down state (60_exceptions.md R315, D39;
notes/assumptions/14.md, 49.md). -/
def State.asleep (s : State) : Bool := s.runState == .powerDown

/-- `n` steps. -/
def run : Nat → State → Outcome
  | 0, s => .next s
  | n + 1, s =>
    match step s with
    | .next t => run n t
    | .fault f => .fault f
    | .refused r => .refused r

/-! ## The frame of an instruction -/

/-- The instructions that may write SR as a whole or a page register, or BR: LDC, ANDC, ORC, XORC (46_system.md R271 to
R275) and RTE (R267). -/
def writesControl : Instr → Bool
  | .ldc .. | .andc .. | .orc .. | .xorc .. | .rte => true
  | _ => false

/-- Every general register outside a list is unchanged. -/
def sameRegs (rs : List Reg) (s t : State) : Prop := ∀ r : Reg, r ∉ rs → t.reg r = s.reg r

/-- Everything but the general registers, PC, the flags and memory is unchanged: MODE, CP, T, I2-I0, BR, EP, DP, TP and
the run state. -/
def sameControl (s t : State) : Prop :=
  t.mode = s.mode ∧ t.cp = s.cp ∧ t.sr.t = s.sr.t ∧ t.sr.imask = s.sr.imask ∧ t.br = s.br ∧ t.ep = s.ep ∧
    t.dp = s.dp ∧ t.tp = s.tp ∧ t.runState = s.runState

/-- Every byte of memory outside a list of addresses reads as before. -/
def sameMemory (bytes : List Addr) (s t : State) : Prop := ∀ a : Addr, a ∉ bytes → t.byteAt a = s.byteAt a

/-- The bytes of an operand of a size at an address. -/
def operandBytes (sz : Size) (a : Addr) : List Addr :=
  match sz with
  | .byte => [a]
  | .word => [a, a + 1]

/-- The bytes of a located operand: none for a register. -/
def Loc.bytes (sz : Size) : Loc → List Addr
  | .reg _ => []
  | .mem a _ => operandBytes sz a

/-- The register of a located operand: none for memory. -/
def Loc.regs : Loc → List Reg
  | .reg r => [r]
  | .mem _ _ => []

/-- The base register a memory mode changes, as a list. -/
def memAuto (m : MemEa) : List Reg := (autoBase m).toList

/-- The base register a source operand changes. -/
def srcAuto : SrcEa → List Reg
  | .mem m => memAuto m
  | _ => []

/-- The base register a destination operand changes. -/
def dstAuto : DstEa → List Reg
  | .mem m => memAuto m
  | _ => []

/-- `@-Rn` has moved Rn down and `@Rn+` has moved it up by the operand size, 1 or 2; no other mode moves a register
(20_memory.md R70, D32). -/
def memMoved (sz : Size) (m : MemEa) (s t : State) : Prop :=
  let k : Word := match sz with
    | .byte => 1
    | .word => 2
  match m with
  | .preDec r => t.reg r = s.reg r - k
  | .postInc r => t.reg r = s.reg r + k
  | _ => True

/-- The same of a source operand. -/
def srcMoved (sz : Size) (src : SrcEa) (s t : State) : Prop :=
  match src with
  | .mem m => memMoved sz m s t
  | _ => True

/-- The same of a destination operand. -/
def dstMoved (sz : Size) (dst : DstEa) (s t : State) : Prop :=
  match dst with
  | .mem m => memMoved sz m s t
  | _ => True

/-- Only PC, the flags, the registers `rs` and the bytes `bytes` may differ. -/
def framed (rs : List Reg) (bytes : List Addr) (s t : State) : Prop :=
  sameRegs rs s t ∧ sameControl s t ∧ sameMemory bytes s t

/-- A byte operand of a register leaves bits 15 to 8 as they were (10_state.md R21). -/
def upperKept (sz : Size) (d : Reg) (s t : State) : Prop :=
  sz = .byte → (t.reg d).extractLsb' 8 8 = (s.reg d).extractLsb' 8 8

/-- `OP <EAs>,Rd` wrote `r` to Rd and set the flags to `f`, and did nothing else but the side effect of the operand. -/
def wroteReg (sz : Size) (src : SrcEa) (d : Reg) (r : BitVec sz.bits) (f : Flags) (s t : State) : Prop :=
  t.regOp sz d = r ∧ upperKept sz d s t ∧ t.flags = f ∧ t.pc = s.pc ∧ srcMoved sz src s t ∧
    framed (d :: srcAuto src) [] s t

/-- `OP <EAd>` wrote `r` to the operand located at `l` and did nothing else but set flags and the side effect of the
operand. -/
def wroteOperand (sz : Size) (dst : DstEa) (l : Loc) (r : BitVec sz.bits) (s t : State) : Prop :=
  (match l with
    | .reg d => t.regOp sz d = r ∧ upperKept sz d s t
    | .mem a _ => t.readMem sz none a = .ok r) ∧
    t.pc = s.pc ∧ dstMoved sz dst s t ∧ framed (l.regs ++ dstAuto dst) (l.bytes sz) s t

/-- `OP <EAd>` set the flags to `f` and did nothing else but the side effect of the operand. -/
def testedOperand (sz : Size) (dst : DstEa) (f : Flags) (s t : State) : Prop :=
  t.flags = f ∧ t.pc = s.pc ∧ dstMoved sz dst s t ∧ framed (dstAuto dst) [] s t

/-! ## The stack and exceptions -/

/-- The bytes of the `k` words below SP, where pushes store. -/
def stackBytes (s : State) (k : Nat) : List Addr :=
  (List.range k).flatMap fun j => operandBytes .word (phys s .stack (s.sp - BitVec.ofNat 16 (2 * j + 2)))

/-- The number of words an exception entry pushes (60_exceptions.md R296). -/
def frameWords : Mode → Nat
  | .min => 2
  | .max => 3

/-- Entry `n` of the vector table gives the code page `cp` and the address `pc`, and the frame an exception would push does
not lie over it (R299). In minimum mode the page is CP itself. -/
def vectorGives (n : Nat) (cp : Byte) (pc : Word) (s : State) : Prop :=
  match s.mode with
  | .min =>
    let v := phys s .vector (BitVec.ofNat 16 (2 * n))
    cp = s.cp ∧ s.wordAt v = some pc ∧ ∀ a ∈ operandBytes .word v, a ∉ stackBytes s 2
  | .max =>
    let v := phys s .vector (BitVec.ofNat 16 (4 * n))
    let w := phys s .vector (BitVec.ofNat 16 (4 * n + 2))
    (∃ hi : Word, s.wordAt v = some hi ∧ hi.extractLsb' 0 8 = cp) ∧ s.wordAt w = some pc ∧
      ∀ a ∈ operandBytes .word v ++ operandBytes .word w, a ∉ stackBytes s 3

/-- `t` is `s` after an exception entry with the return address `ret` (R296, R297): SR at SP, in maximum mode CP in the low
byte of the next word, PC above them; T cleared, the rest of SR kept; CP and PC from the vector; normal running; no other
register, and no byte outside the frame, changed. -/
def entered (ret : Word) (cp : Byte) (pc : Word) (s t : State) : Prop :=
  t.sp = s.sp - BitVec.ofNat 16 (2 * frameWords s.mode) ∧
    t.wordAt (phys s .stack t.sp) = some s.sr.toWord ∧
    (s.mode = .max → t.byteAt (phys s .stack (s.sp - 3)) = some s.cp) ∧
    t.wordAt (phys s .stack (s.sp - 2)) = some ret ∧
    t.sr = { s.sr with t := false } ∧ t.cp = cp ∧ t.pc = pc ∧ t.runState = .running ∧
    t.mode = s.mode ∧ t.br = s.br ∧ t.ep = s.ep ∧ t.dp = s.dp ∧ t.tp = s.tp ∧
    sameRegs [Config.spIndex] s t ∧ sameMemory (stackBytes s (frameWords s.mode)) s t

/-- `t` is `s` after one word `w` was pushed and PC became `pc`; CP is given. -/
def pushedWord (w pc : Word) (cp : Byte) (s t : State) : Prop :=
  t.sp = s.sp - 2 ∧ t.wordAt (phys s .stack (s.sp - 2)) = some w ∧ t.pc = pc ∧ t.cp = cp ∧ t.sr = s.sr ∧
    sameRegs [Config.spIndex] s t ∧ sameMemory (stackBytes s 1) s t ∧
    t.mode = s.mode ∧ t.br = s.br ∧ t.ep = s.ep ∧ t.dp = s.dp ∧ t.tp = s.tp ∧ t.runState = s.runState

end Sys2Proof.Machine
end

