-- ==== Sys2Proof/Certificates/Slice0/Obligations.lean ====
section
/-! DEFINITION. The statements for the provers. A statement about an operand names it through `fetchSource`, `fetchDest` or
`locateDst`, the functions the meanings use; what these answer in each addressing mode is a statement of its own. -/

section Statements

open Sys2Proof Sys2Proof.Machine

/-! ## Encoding -/

/-- Decoding the encoding of any well-formed instruction, with any bytes after it, gives the instruction and those bytes
(30_encoding.md R80 to R98). -/
def Obligations.DecodeReadsEveryEncoding : Prop :=
  ∀ (i : Instr) (rest : List Byte), WellFormed i → decode (encode i ++ rest) = .instr i rest

/-- Every instruction the decoder reads is well formed, and its bytes are its encoding: the code is unambiguous. The ten
`<EA>` rows, which stand for all unassigned OP fields (notes/assumptions/25.md), are well formed too. -/
def Obligations.DecodedBytesAreTheEncoding : Prop :=
  ∀ (bs : List Byte) (i : Instr) (rest : List Byte), decode bs = .instr i rest →
    WellFormed i ∧ (i.isEaRow = false → bs = encode i ++ rest)

/-- Words of the source's own examples and of the spec's encodings, written out, decode to their instructions (R81, R102),
and the special formats' unassigned codes are unassigned whatever follows (R92, R99): first bytes 0B, 16, 1B; a TRAPA second
byte outside 10 to 1F; an SCB second byte outside B8 to BF; after the prefix 11 a second byte outside 14, 19, 1C, C0 to FF. -/
def Obligations.SpecWordsDecode : Prop :=
  (decode [0xD0, 0x21] = .instr (.addG .byte (.mem (.ind 0)) 1) [] ∧
     decode [0x0D, 0x11, 0x21] = .instr (.addG .word (.mem (.abs8 0x11)) 1) [] ∧
     decode [0xD8, 0x21] = .instr (.addG .word (.mem (.ind 0)) 1) [] ∧
     decode [0x11, 0xD8] = .instr (.jsrInd 0) [] ∧
     decode [0xF9, 0x00, 0x10, 0x07, 0xAB, 0xCD] = .instr (.movGImm16 0xABCD (.disp16 1 0x10)) [] ∧
     decode [0x04, 0x01, 0x49] = .instr (.orc (.imm8 1) .ccr) [] ∧
     decode [0xA9, 0x49] = .instr (.bsetReg .word 1 (.reg 1)) [] ∧
     decode [0x01, 0xB9, 0xF9] = .instr (.scbF 1 0xF9) []) ∧
  ((∀ rest, decode (0x0B :: rest) = .unassigned ∧ decode (0x16 :: rest) = .unassigned ∧
     decode (0x1B :: rest) = .unassigned) ∧
   (∀ (b : Byte) rest, b.extractLsb' 4 4 ≠ 1 → decode (0x08 :: b :: rest) = .unassigned) ∧
   (∀ (b : Byte) rest, b.extractLsb' 3 5 ≠ 0b10111 → decode (0x01 :: b :: rest) = .unassigned ∧
     decode (0x06 :: b :: rest) = .unassigned ∧ decode (0x07 :: b :: rest) = .unassigned) ∧
   (∀ (b : Byte) rest, b ∉ ([0x14, 0x19, 0x1C] : List Byte) → b.toNat < 0xC0 → decode (0x11 :: b :: rest) = .unassigned))

/-- Every instruction has 1 to 6 bytes (R80). -/
def Obligations.EncodingsHaveOneToSixBytes : Prop :=
  ∀ i : Instr, Sys2Proof.Laws.EncodedLength.Statement i

/-- The short formats do what their general equivalents do (R94, R101): MOV:E, MOV:I, MOV:L, MOV:S, MOV:F, CMP:E and CMP:I
against MOV:G and CMP:G, in every state. -/
def Obligations.ShortFormsEqualGeneralForms : Prop :=
  ∀ (v : Byte) (w : Word) (d : Reg) (s : State),
    exec (.movE v d) s = exec (.movGLoad .byte (.imm (.imm8 v)) d) s ∧
    exec (.movI w d) s = exec (.movGLoad .word (.imm (.imm16 w)) d) s ∧
    exec (.movLB v d) s = exec (.movGLoad .byte (.mem (.abs8 v)) d) s ∧
    exec (.movLW v d) s = exec (.movGLoad .word (.mem (.abs8 v)) d) s ∧
    exec (.movSB d v) s = exec (.movGStore .byte d (.abs8 v)) s ∧
    exec (.movSW d v) s = exec (.movGStore .word d (.abs8 v)) s ∧
    exec (.movFLoadB v d) s = exec (.movGLoad .byte (.mem (.disp8 6 v)) d) s ∧
    exec (.movFLoadW v d) s = exec (.movGLoad .word (.mem (.disp8 6 v)) d) s ∧
    exec (.movFStoreB d v) s = exec (.movGStore .byte d (.disp8 6 v)) s ∧
    exec (.movFStoreW d v) s = exec (.movGStore .word d (.disp8 6 v)) s ∧
    exec (.cmpE v d) s = exec (.cmpG .byte (.imm (.imm8 v)) d) s ∧
    exec (.cmpI w d) s = exec (.cmpG .word (.imm (.imm16 w)) d) s

/-! ## A step -/

/-- In normal running, when the bytes at PC decode to an instruction, the step is `exec` of it with PC past its bytes, and
then the trace exception if T was set (10_state.md R25, 60_exceptions.md R312; notes/assumptions/12.md). -/
def Obligations.StepRunsDecodedInstruction : Prop :=
  ∀ (s : State) (i : Instr) (rest : List Byte), s.runState = .running → decode (fetchWindow s) = .instr i rest →
    step s = traceAfter s.sr.t (exec i (s.setPc (s.pc + BitVec.ofNat 16 ((fetchWindow s).length - rest.length))))

/-- When the encoding of a well-formed instruction can be fetched at PC, byte by byte, the step runs it with PC past exactly
its bytes, and with T clear does nothing else. -/
def Obligations.StepRunsEncodedInstruction : Prop :=
  ∀ (s : State) (i : Instr), s.runState = .running → s.sr.t = false → WellFormed i →
    (∀ (k : Nat) (h : k < (encode i).length), fetchByte s k = .ok (encode i)[k]) →
    step s = exec i (s.setPc (s.pc + BitVec.ofNat 16 (encode i).length))

/-- With T set at the start of an instruction, the trace exception is taken after it, with the address of the next
instruction (60_exceptions.md R298, R312); over an unassigned code it is taken after the InvalidInstruction exception has been
entered, with the handler's address (R302, R312; that entry is the model's choice, notes/assumptions/9.md). That the model
implements trace is its choice (notes/assumptions/12.md), and so is that this holds of SLEEP, which then does not end the run
(notes/assumptions/49.md). -/
def Obligations.TraceFollowsTheInstruction : Prop :=
  (∀ (s s1 u : State) (i : Instr) (cp : Byte) (pc : Word), s.runState = .running → s.sr.t = true →
    fetchInstr s = .ok (i, s1) → exec i s1 = .next u → u.sp.getLsbD 0 = false → vectorGives Config.vecTrace cp pc u →
    ∃ t, step s = .next t ∧ entered u.pc cp pc u t) ∧
  (∀ (s u : State) (cp : Byte) (pc : Word), s.runState = .running → s.sr.t = true → decode (fetchWindow s) = .unassigned →
    raiseInvalidInstruction s = .ok u → vectorGives Config.vecTrace cp pc u →
    ∃ t, step s = .next t ∧ entered u.pc cp pc u t)

/-! ## What every step keeps -/

/-- Every step from a consistent state goes to a consistent state: memory keeps its canonical form and stays inside the
address space of the mode, and the addresses stored to stay rising and hold a byte (the model's form of R61 and R67;
notes/assumptions/1.md, 7.md). -/
def Obligations.StepKeepsConsistency : Prop := ∀ s t : State, s.Inv → step s = .next t → t.Inv

/-- The state after reset is consistent, and so is every state a loaded instruction makes of a consistent one
(notes/assumptions/3.md). -/
def Obligations.ResetIsConsistent : Prop :=
  State.reset.Inv ∧ ∀ (s : State) (nbits w : Nat), s.Inv → (s.withFetchWord nbits w).Inv

/-- No step changes the operating mode (10_state.md R35 (a)), and in minimum mode none changes CP. The latter is the model's
inference: of what writes CP (R27), exceptions and RTE do so in maximum mode only (60_exceptions.md R299, R308), and the page
instructions are refused in minimum mode (45_branch.md R245, R248, R250, R252), which is a choice, the spec's decision D31
(notes/assumptions/43.md, 20.md). -/
def Obligations.StepKeepsMode : Prop :=
  ∀ s t : State, step s = .next t → t.mode = s.mode ∧ (s.mode = .min → t.cp = s.cp)

/-- Only LDC, ANDC, ORC, XORC and RTE change the interrupt mask or set T, and only the first four change BR, EP, DP, TP; every
other instruction, whatever exception it takes, keeps them and at most clears T (46_system.md R277, 60_exceptions.md R297).
That an exception entry keeps the mask and clears T is a choice, the spec's decision D21 (notes/assumptions/40.md); that an
instruction which sets T runs is the model's (notes/assumptions/12.md). -/
def Obligations.OnlyControlInstructionsWriteControlRegisters : Prop :=
  ∀ (i : Instr) (s t : State), exec i s = .next t →
    (writesControl i = false → t.sr.imask = s.sr.imask ∧ (t.sr.t = s.sr.t ∨ t.sr.t = false)) ∧
    (writesControl i = false ∨ i = .rte → t.br = s.br ∧ t.ep = s.ep ∧ t.dp = s.dp ∧ t.tp = s.tp)

/-- Every byte of memory an instruction changes is marked as stored to, and no mark is lost; a fetch of a marked byte is refused
(20_memory.md R67), and so is a fetch from an address that holds nothing (R61, 60_exceptions.md R324): of the byte at PC, and
of every later byte that the bytes `bs` before it leave the decoder to ask for (an instruction has at most six, R80). Both
refusals are choices: the first the spec's (D29, U16; notes/assumptions/7.md), the second the model's between the two
treatments of U14 (notes/assumptions/1.md). -/
def Obligations.StoredBytesAreNotFetched : Prop :=
  (∀ (i : Instr) (s t : State), exec i s = .next t →
     (∀ a ∈ s.stored, a ∈ t.stored) ∧ ∀ a : Addr, t.byteAt a ≠ s.byteAt a → a.toNat ∈ t.stored) ∧
  (∀ (s : State) (bs : List Byte), s.runState = .running → bs.length < maxLength →
     (∀ (k : Nat) (h : k < bs.length), fetchByte s k = .ok bs[k]) → decode bs = .truncated →
     let a := fetchAddr s bs.length
     (a.toNat ∈ s.stored → step s = .refused .fetchOfStoredByte) ∧
     (a.toNat ∉ s.stored → s.byteAt a = none → step s = .refused .memoryNotSupplied)) ∧
  decode [] = .truncated

/-! ## Memory and operands -/

/-- A word stored at an even address is read back whole and byte by byte, high byte at the lower address, and no other byte
changes; at an odd address neither the read nor the write happens (20_memory.md R54, R55, R57). Both are choices, the spec's
decisions D2 (byte order, notes/assumptions/29.md) and D3 (alignment, notes/assumptions/31.md). -/
def Obligations.WordsAreBigEndianAndAligned : Prop :=
  ∀ (s : State) (a : Addr) (v : Word) (touched : Option Reg),
    (isEven a = true → ∃ t, s.writeWord touched a v = .ok t ∧ t.readWord touched a = .ok v ∧
      t.byteAt a = some (v.extractLsb' 8 8) ∧ t.byteAt (a + 1) = some (v.extractLsb' 0 8) ∧
      sameMemory [a, a + 1] s t) ∧
    (isEven a = false → s.writeWord touched a v = .error (.addressError touched) ∧
      s.readWord touched a = .error (.addressError touched))

/-- Physical addresses (20_memory.md R53): the 16-bit address itself in minimum mode; in maximum mode CP for code, DP for
R0-R3 and `@aa:16`, EP for R4 and R5, TP for R6, R7 and the stack, page 0 for `@aa:8` and the vectors. The assignment is a
choice, the spec's decision D30 (notes/assumptions/42.md). -/
def Obligations.PageRegistersExtendAddresses : Prop :=
  ∀ (s : State) (a : Word),
    (s.mode = .min → ∀ sp, (phys s sp a).toNat = a.toNat) ∧
    (s.mode = .max →
      (phys s .code a).toNat = s.cp.toNat * 65536 + a.toNat ∧
      (phys s .abs16 a).toNat = s.dp.toNat * 65536 + a.toNat ∧
      (∀ r ∈ ([0, 1, 2, 3] : List Reg), (phys s (.dataReg r) a).toNat = s.dp.toNat * 65536 + a.toNat) ∧
      (∀ r ∈ ([4, 5] : List Reg), (phys s (.dataReg r) a).toNat = s.ep.toNat * 65536 + a.toNat) ∧
      (∀ r ∈ ([6, 7] : List Reg), (phys s (.dataReg r) a).toNat = s.tp.toNat * 65536 + a.toNat) ∧
      (phys s .stack a).toNat = s.tp.toNat * 65536 + a.toNat ∧
      (phys s .abs8 a).toNat = a.toNat ∧ (phys s .vector a).toNat = a.toNat)

/-- What an operand is in each addressing mode (20_memory.md R70): its value, where it lies, and the one register its decoding
moves. A memory operand is located when its mode is not refused, and read when the byte or the whole word is there and a word
is at an even address. `other` is the register operand of the instruction. Choices, all the spec's decisions: the sign
extension of `d:8` (D6, notes/assumptions/33.md), BR : aa and the page registers (D30, notes/assumptions/42.md), and the step
of `@-Rn` and `@Rn+` (D32, notes/assumptions/44.md). -/
def Obligations.OperandByMode : Prop :=
  ∀ (sz : Size) (other : Option Reg) (s : State),
    let k : Word := match sz with
      | .byte => 1
      | .word => 2
    (∀ r, fetchSource sz other (.reg r) s = .ok ((s.reg r).setWidth sz.bits, s) ∧
      locateDst sz other (.reg r) s = .ok (.reg r, s) ∧
      fetchDest sz other (.reg r) s = .ok ((s.reg r).setWidth sz.bits, .reg r, s)) ∧
    (∀ v : Byte, fetchSource .byte other (.imm (.imm8 v)) s = .ok (v, s)) ∧
    (∀ v : Word, fetchSource .word other (.imm (.imm16 v)) s = .ok (v, s)) ∧
    ∀ m : MemEa, eaRefusal sz other m = none →
      let a : Addr := match m with
        | .ind r => phys s (.dataReg r) (s.reg r)
        | .disp8 r d => phys s (.dataReg r) (s.reg r + d.signExtend 16)
        | .disp16 r d => phys s (.dataReg r) (s.reg r + d)
        | .preDec r => phys s (.dataReg r) (s.reg r - k)
        | .postInc r => phys s (.dataReg r) (s.reg r)
        | .abs8 x => phys s .abs8 (s.br ++ x)
        | .abs16 x => phys s .abs16 x
      let t : State := match m with
        | .preDec r => s.setReg r (s.reg r - k)
        | .postInc r => s.setReg r (s.reg r + k)
        | _ => s
      memAddr sz m s = a ∧ locateDst sz other (.mem m) s = .ok (.mem a (autoBase m), t) ∧
      (∀ v : Byte, sz = .byte → s.byteAt a = some v →
        fetchSource sz other (.mem m) s = .ok (v.setWidth sz.bits, t) ∧
        fetchDest sz other (.mem m) s = .ok (v.setWidth sz.bits, .mem a (autoBase m), t)) ∧
      (∀ v : Word, sz = .word → a.toNat % 2 = 0 → s.wordAt a = some v →
        fetchSource sz other (.mem m) s = .ok (v.setWidth sz.bits, t) ∧
        fetchDest sz other (.mem m) s = .ok (v.setWidth sz.bits, .mem a (autoBase m), t))

/-- The corner cases of the auto-modify modes that the spec refuses (20_memory.md R70, U6, U7): a byte operand `@-R7` or `@R7+`,
and a register operand that is the auto-modified base. Each refuses every instruction it can stand in: those with a register
operand and a memory operand, and those with a memory operand alone. Every pair of size and control register that the table
marks "(Not allowed)" is refused, by LDC, STC, ANDC, ORC and XORC (10_state.md R32, 46_system.md R277, U1). LDM and STM refuse
a list with R7 (U8). What U7 takes as the register operand is the model's reading (notes/assumptions/19.md), the refusals are
the spec's decisions (D16, D23, D32; notes/assumptions/20.md). -/
def Obligations.RefusedOperandCombinations : Prop :=
  ((∀ (sz : Size) (other : Option Reg) (r : Reg),
     (sz = .byte ∧ r = 7 → eaRefusal sz other (.preDec r) = some .byteThroughStackPointer ∧
       eaRefusal sz other (.postInc r) = some .byteThroughStackPointer) ∧
     (¬(sz = .byte ∧ r = 7) → other = some r → eaRefusal sz other (.preDec r) = some .registerIsAutoBase ∧
       eaRefusal sz other (.postInc r) = some .registerIsAutoBase) ∧
     (¬(sz = .byte ∧ r = 7) → other ≠ some r → eaRefusal sz other (.preDec r) = none ∧
       eaRefusal sz other (.postInc r) = none)) ∧
   ∀ (sz : Size) (m : MemEa) (d : Reg) (why : Refusal) (s : State), eaRefusal sz (some d) m = some why →
     (∀ i ∈ [Instr.movGLoad sz (.mem m) d, .addG sz (.mem m) d, .adds sz (.mem m) d, .addx sz (.mem m) d,
         .sub sz (.mem m) d, .subs sz (.mem m) d, .subx sz (.mem m) d, .mulxu sz (.mem m) d, .divxu sz (.mem m) d,
         .cmpG sz (.mem m) d, .and sz (.mem m) d, .or sz (.mem m) d, .xor sz (.mem m) d, .movGStore sz d m,
         .bsetReg sz d (.mem m), .bclrReg sz d (.mem m), .bnotReg sz d (.mem m), .btstReg sz d (.mem m)],
       exec i s = .refused why) ∧
     (sz = .byte → exec (.movfpe m d) s = .refused why ∧ exec (.movtpe d m) s = .refused why)) ∧
  (∀ (sz : Size) (m : MemEa) (k : BitVec 4) (v : Byte) (why : Refusal) (s : State), eaRefusal sz none m = some why →
     (∀ i ∈ [Instr.addQ1 sz (.mem m), .addQ2 sz (.mem m), .addQm1 sz (.mem m), .addQm2 sz (.mem m), .neg sz (.mem m),
         .not sz (.mem m), .tst sz (.mem m), .clr sz (.mem m), .shal sz (.mem m), .shar sz (.mem m), .shll sz (.mem m),
         .shlr sz (.mem m), .rotl sz (.mem m), .rotr sz (.mem m), .rotxl sz (.mem m), .rotxr sz (.mem m),
         .bsetImm sz k (.mem m), .bclrImm sz k (.mem m), .bnotImm sz k (.mem m), .btstImm sz k (.mem m), .movGImm8 sz v m],
       exec i s = .refused why) ∧
     (sz = .byte → exec (.tas (.mem m)) s = .refused why ∧ exec (.cmpGImm8 v m) s = .refused why ∧
       ∀ cr ∈ [CtlReg.ccr, .br, .ep, .dp, .tp],
         exec (.ldc .byte (.mem m) cr) s = .refused why ∧ exec (.stc .byte cr (.mem m)) s = .refused why)) ∧
  (∀ (sz : Size) (cr : CtlReg) (src : SrcEa) (dst : DstEa) (imm : ImmEa) (s : State),
     ((sz, cr) ∉ [(Size.word, CtlReg.sr), (.byte, .ccr), (.byte, .br), (.byte, .ep), (.byte, .dp), (.byte, .tp)] →
       exec (.ldc sz src cr) s = .refused .controlRegisterNotAllowed ∧
       exec (.stc sz cr dst) s = .refused .controlRegisterNotAllowed) ∧
     ((imm.size, cr) ∉ [(Size.word, CtlReg.sr), (.byte, .ccr), (.byte, .br), (.byte, .ep), (.byte, .dp), (.byte, .tp)] →
       exec (.andc imm cr) s = .refused .controlRegisterNotAllowed ∧
       exec (.orc imm cr) s = .refused .controlRegisterNotAllowed ∧
       exec (.xorc imm cr) s = .refused .controlRegisterNotAllowed)) ∧
  (∀ (list : Byte) (s : State), list.getLsbD 7 = true →
   exec (.stm list) s = .refused .stackPointerInList ∧ exec (.ldm list) s = .refused .stackPointerInList)

/-- A word operand at an odd address takes the AddressError exception from the state before the instruction, the access not
performed (20_memory.md R57, 60_exceptions.md R304): for every instruction with a word memory operand, the short moves through
`@aa:8` and `@(d:8,R6)` among them. The check is the spec's decision D3 (notes/assumptions/31.md), and that it is vectored is
the model's choice (notes/assumptions/10.md). -/
def Obligations.MisalignedWordTakesAddressError : Prop :=
  ∀ (m : MemEa) (d : Reg) (k : BitVec 4) (v : Byte) (w : Word) (s : State),
    let o := ofEntry (raiseAddressError (autoBase m) s)
    (isEven (memAddr .word m s) = false → eaRefusal .word none m = none →
      ∀ i ∈ [Instr.addQ1 .word (.mem m), .addQ2 .word (.mem m), .addQm1 .word (.mem m), .addQm2 .word (.mem m),
          .neg .word (.mem m), .not .word (.mem m), .tst .word (.mem m), .clr .word (.mem m), .shal .word (.mem m),
          .shar .word (.mem m), .shll .word (.mem m), .shlr .word (.mem m), .rotl .word (.mem m), .rotr .word (.mem m),
          .rotxl .word (.mem m), .rotxr .word (.mem m), .bsetImm .word k (.mem m), .bclrImm .word k (.mem m),
          .bnotImm .word k (.mem m), .btstImm .word k (.mem m), .movGImm8 .word v m, .movGImm16 w m, .cmpGImm16 w m,
          .stc .word .sr (.mem m), .ldc .word (.mem m) .sr],
        exec i s = o) ∧
    (isEven (memAddr .word m s) = false → eaRefusal .word (some d) m = none →
      ∀ i ∈ [Instr.movGLoad .word (.mem m) d, .addG .word (.mem m) d, .adds .word (.mem m) d, .addx .word (.mem m) d,
          .sub .word (.mem m) d, .subs .word (.mem m) d, .subx .word (.mem m) d, .mulxu .word (.mem m) d,
          .divxu .word (.mem m) d, .cmpG .word (.mem m) d, .and .word (.mem m) d, .or .word (.mem m) d,
          .xor .word (.mem m) d, .movGStore .word d m, .bsetReg .word d (.mem m), .bclrReg .word d (.mem m),
          .bnotReg .word d (.mem m), .btstReg .word d (.mem m)],
        exec i s = o) ∧
    (isEven (memAddr .word (.abs8 v) s) = false →
      ∀ i ∈ [Instr.movLW v d, .movSW d v], exec i s = ofEntry (raiseAddressError none s)) ∧
    (isEven (memAddr .word (.disp8 6 v) s) = false →
      ∀ i ∈ [Instr.movFLoadW v d, .movFStoreW d v], exec i s = ofEntry (raiseAddressError none s))

/-! ## Data transfer -/

/-- MOV:G to a register (40_data_transfer.md R120, R121): Rd gets the operand, N and Z come from it, V is 0, C is kept. MOVFPE
loads a byte and changes no flag (R135). -/
def Obligations.LoadResult : Prop :=
  (∀ (sz : Size) (src : SrcEa) (d : Reg) (v : BitVec sz.bits) (s s1 : State), fetchSource sz (some d) src s = .ok (v, s1) →
     ∃ t, exec (.movGLoad sz src d) s = .next t ∧
       wroteReg sz src d v { n := v.msb, z := decide (v = 0), v := false, c := s.flags.c } s t) ∧
  (∀ (m : MemEa) (d : Reg) (v : Byte) (s s1 : State), fetchSource .byte (some d) (.mem m) s = .ok (v, s1) →
     ∃ t, exec (.movfpe m d) s = .next t ∧ wroteReg .byte (.mem m) d v s.flags s t)

/-- MOV:I.W moves a 16-bit immediate to a register: its encoding, the register, the flags N and Z from the value, V = 0, C
kept, and the spec's example (40_data_transfer.md R127). -/
def Obligations.MovImmediateWord : Prop :=
  (∀ (v : Word) (d : Reg) (s : State),
    encode (.movI v d) = [0b01011#5 ++ BitVec.ofFin (w := 3) d, v.extractLsb' 8 8, v.extractLsb' 0 8] ∧
    ∃ t, exec (.movI v d) s = .next t ∧ t.reg d = v ∧
      t.flags = { n := v.getLsbD 15, z := decide (v = 0), v := false, c := s.flags.c } ∧ t.pc = s.pc ∧
      framed [d] [] s t) ∧
  (decode [0x5F, 0xFE, 0x00] = .instr (.movI 0xFE00 7) [] ∧
    ∀ s, ∃ t, exec (.movI 0xFE00 7) s = .next t ∧ t.reg 7 = 0xFE00 ∧ t.flags.n = true)

/-- The short moves (R124, R125, R126, R128, R129): a byte immediate, loads and stores at `@aa:8`, which is BR : aa, and at
`@(d:8,R6)`. BR : aa and the pages are the spec's choice D30 (notes/assumptions/42.md), the sign extension of d:8 its choice
D6 (notes/assumptions/33.md). -/
def Obligations.ShortMoveResult : Prop :=
  (∀ (x : Byte) (d : Reg) (s : State),
     (∃ t, exec (.movE x d) s = .next t ∧
       wroteReg .byte (.imm (.imm8 x)) d x { n := x.msb, z := decide (x = 0), v := false, c := s.flags.c } s t) ∧
     (∀ v : Byte,
       (s.byteAt (phys s .abs8 (s.br ++ x)) = some v → ∃ t, exec (.movLB x d) s = .next t ∧
         wroteReg .byte (.mem (.abs8 x)) d v { n := v.msb, z := decide (v = 0), v := false, c := s.flags.c } s t) ∧
       (s.byteAt (phys s (.dataReg 6) (s.reg 6 + x.signExtend 16)) = some v → ∃ t, exec (.movFLoadB x d) s = .next t ∧
         wroteReg .byte (.mem (.disp8 6 x)) d v { n := v.msb, z := decide (v = 0), v := false, c := s.flags.c } s t)) ∧
     (∀ v : Word,
       (isEven (phys s .abs8 (s.br ++ x)) = true → s.wordAt (phys s .abs8 (s.br ++ x)) = some v →
         ∃ t, exec (.movLW x d) s = .next t ∧
           wroteReg .word (.mem (.abs8 x)) d v { n := v.msb, z := decide (v = 0), v := false, c := s.flags.c } s t) ∧
       (isEven (phys s (.dataReg 6) (s.reg 6 + x.signExtend 16)) = true →
         s.wordAt (phys s (.dataReg 6) (s.reg 6 + x.signExtend 16)) = some v →
         ∃ t, exec (.movFLoadW x d) s = .next t ∧
           wroteReg .word (.mem (.disp8 6 x)) d v { n := v.msb, z := decide (v = 0), v := false, c := s.flags.c } s t))) ∧
  (∀ (x : Byte) (r : Reg) (s : State),
     let a := phys s .abs8 (s.br ++ x)
     let b := phys s (.dataReg 6) (s.reg 6 + x.signExtend 16)
     let moved {n : Nat} (v : BitVec n) : Flags := { n := v.msb, z := decide (v = 0), v := false, c := s.flags.c }
     (∃ t, exec (.movSB r x) s = .next t ∧ t.byteAt a = some (s.regOp .byte r) ∧ t.flags = moved (s.regOp .byte r) ∧
       t.pc = s.pc ∧ framed [] [a] s t) ∧
     (∃ t, exec (.movFStoreB r x) s = .next t ∧ t.byteAt b = some (s.regOp .byte r) ∧
       t.flags = moved (s.regOp .byte r) ∧ t.pc = s.pc ∧ framed [] [b] s t) ∧
     (isEven a = true → ∃ t, exec (.movSW r x) s = .next t ∧ t.wordAt a = some (s.reg r) ∧ t.flags = moved (s.reg r) ∧
       t.pc = s.pc ∧ framed [] [a, a + 1] s t) ∧
     (isEven b = true → ∃ t, exec (.movFStoreW r x) s = .next t ∧ t.wordAt b = some (s.reg r) ∧
       t.flags = moved (s.reg r) ∧ t.pc = s.pc ∧ framed [] [b, b + 1] s t))

/-- The stores to a memory mode (R122, R123, R134, 46_system.md R272), each with the address its EA gives: the operand holds
the value, the flags are the rule's, nothing else changes. MOV:G.W #xx:8 stores the sign-extended immediate, which is the
spec's choice D7 (notes/assumptions/33.md); MOVTPE and STC change no flag. -/
def Obligations.StoreResult : Prop :=
  ∀ (sz : Size) (m : MemEa) (r : Reg) (x : Byte) (w : Word) (s : State),
    let moved {n : Nat} (v : BitVec n) : Flags := { n := v.msb, z := decide (v = 0), v := false, c := s.flags.c }
    let l (k : Size) : Loc := .mem (memAddr k m s) (autoBase m)
    (aligned sz (memAddr sz m s) = true → eaRefusal sz (some r) m = none → ∃ t, exec (.movGStore sz r m) s = .next t ∧
      wroteOperand sz (.mem m) (l sz) (s.regOp sz r) s t ∧ t.flags = moved (s.regOp sz r)) ∧
    (aligned sz (memAddr sz m s) = true → eaRefusal sz none m = none → ∃ t, exec (.movGImm8 sz x m) s = .next t ∧
      wroteOperand sz (.mem m) (l sz) (x.signExtend sz.bits) s t ∧ t.flags = moved (x.signExtend sz.bits)) ∧
    (isEven (memAddr .word m s) = true → ∃ t, exec (.movGImm16 w m) s = .next t ∧
      wroteOperand .word (.mem m) (l .word) w s t ∧ t.flags = moved w) ∧
    (eaRefusal .byte (some r) m = none → ∃ t, exec (.movtpe r m) s = .next t ∧
      wroteOperand .byte (.mem m) (l .byte) (s.regOp .byte r) s t ∧ t.flags = s.flags) ∧
    (isEven (memAddr .word m s) = true → ∃ t, exec (.stc .word .sr (.mem m)) s = .next t ∧
      wroteOperand .word (.mem m) (l .word) s.sr.toWord s t ∧ t.flags = s.flags)

/-- XCH.W exchanges two registers (40_data_transfer.md R132): its encoding and length, the exchange, no flag and nothing else
changed, s = d leaves everything unchanged, and the example. The byte-size code is unassigned: that it decodes to an `<EA>`
row, which stands for an EA field with an unassigned OP field, is the model's choice (notes/assumptions/25.md). -/
def Obligations.ExchangeRegisters : Prop :=
  (∀ (a b : Reg) (s : State),
    encode (.xch a b) = [0b10101#5 ++ BitVec.ofFin (w := 3) a, 0b10010#5 ++ BitVec.ofFin (w := 3) b] ∧
    (∃ t, exec (.xch a b) s = .next t ∧ t.reg a = s.reg b ∧ t.reg b = s.reg a ∧ t.flags = s.flags ∧ t.pc = s.pc ∧
      framed [a, b] [] s t) ∧
    (∃ t, exec (.xch a a) s = .next t ∧ t.flags = s.flags ∧ t.pc = s.pc ∧ framed [] [] s t) ∧
    decode [0b10100#5 ++ BitVec.ofFin (w := 3) a, 0b10010#5 ++ BitVec.ofFin (w := 3) b] = .instr (.eaRn .byte a) []) ∧
  decode [0xA9, 0x92] = .instr (.xch 1 2) [] ∧
  ∀ s : State, s.reg 1 = 1 → s.reg 2 = 2 → ∃ t, exec (.xch 1 2) s = .next t ∧ t.reg 1 = 2 ∧ t.reg 2 = 1

/-- SWAP.B exchanges the bytes of a register (R133): V is 0, C is kept, and N and Z are as said wherever the byte reading and
the word reading agree; where they differ nothing is said of them (U9, D35; notes/assumptions/22.md). -/
def Obligations.SwapResult : Prop :=
  ∀ (d : Reg) (s : State), ∃ t, exec (.swap d) s = .next t ∧
    (t.reg d).extractLsb' 0 8 = (s.reg d).extractLsb' 8 8 ∧ (t.reg d).extractLsb' 8 8 = (s.reg d).extractLsb' 0 8 ∧
    t.flags.v = false ∧ t.flags.c = s.flags.c ∧
    ((t.reg d).getLsbD 7 = (t.reg d).getLsbD 15 → t.flags.n = (t.reg d).getLsbD 7) ∧
    (t.reg d = 0 → t.flags.z = true) ∧ ((t.reg d).extractLsb' 0 8 ≠ 0 → t.flags.z = false) ∧
    t.pc = s.pc ∧ framed [d] [] s t

/-- STM stores the listed registers, the lowest-numbered at the lowest address, from an even SP; LDM loads them from the words at
SP up, the lowest-numbered first (R130, R131; the order is the spec's decision D16, notes/assumptions/37.md). The list is
strictly ascending and holds the registers whose bits are set. -/
def Obligations.RegisterListResult : Prop :=
  (∀ list : Byte, list.getLsbD 7 = false →
     (listedRegs list).Pairwise (· < ·) ∧ ∀ r : Reg, r ∈ listedRegs list ↔ list.getLsbD r.val = true) ∧
  (∀ (list : Byte) (s : State), list.getLsbD 7 = false → s.sp.getLsbD 0 = false →
     let rs := listedRegs list
     ∃ t, exec (.stm list) s = .next t ∧ t.sp = s.sp - BitVec.ofNat 16 (2 * rs.length) ∧
       (∀ (j : Nat) (h : j < rs.length),
         t.wordAt (phys s .stack (t.sp + BitVec.ofNat 16 (2 * j))) = some (s.reg rs[j])) ∧
       t.flags = s.flags ∧ t.pc = s.pc ∧ framed [Config.spIndex] (stackBytes s rs.length) s t) ∧
  (∀ (list : Byte) (s : State), list.getLsbD 7 = false → s.sp.getLsbD 0 = false →
     let rs := listedRegs list
     (∀ j < rs.length, ∃ w, s.wordAt (phys s .stack (s.sp + BitVec.ofNat 16 (2 * j))) = some w) →
     ∃ t, exec (.ldm list) s = .next t ∧ t.sp = s.sp + BitVec.ofNat 16 (2 * rs.length) ∧
       (∀ (j : Nat) (h : j < rs.length),
         s.wordAt (phys s .stack (s.sp + BitVec.ofNat 16 (2 * j))) = some (t.reg rs[j])) ∧
       t.flags = s.flags ∧ t.pc = s.pc ∧ framed (Config.spIndex :: rs) [] s t)

/-- LDM undoes STM: whatever the registers hold in between, STM and then LDM of the same list gives back the listed registers
and SP (R131; the order of both is the spec's decision D16, notes/assumptions/37.md). -/
def Obligations.LdmUndoesStm : Prop :=
  ∀ (list : Byte) (s t : State), s.sp.getLsbD 0 = false → exec (.stm list) s = .next t → ∀ other : Reg → Word,
    let t' := (listedRegs list).foldl (fun u r => u.setReg r (other r)) t
    ∃ u, exec (.ldm list) t' = .next u ∧ u.sp = s.sp ∧ ∀ r ∈ listedRegs list, u.reg r = s.reg r

/-! ## Arithmetic -/

/-- The flags of addition and subtraction in numbers (00_scope.md R13): the result is the sum or difference modulo 2^n; N is
its sign, Z says it is 0, C is the unsigned carry or borrow, and V says that the signed sum or difference is out of range. The
formulas are the spec's choice D9 (notes/assumptions/35.md). -/
def Obligations.ArithmeticFlagsInNumbers : Prop :=
  ∀ (sz : Size) (a b : BitVec sz.bits) (c : Bool),
    let n := sz.bits
    (let r := addWith a b c
      let f := addFlags a b c
      r.toNat = (a.toNat + b.toNat + c.toNat) % 2 ^ n ∧ (f.n = true ↔ r.toInt < 0) ∧ (f.z = true ↔ r.toNat = 0) ∧
      (f.c = true ↔ 2 ^ n ≤ a.toNat + b.toNat + c.toNat) ∧
      (f.v = true ↔ ¬(-(2 : Int) ^ (n - 1) ≤ a.toInt + b.toInt + c.toNat ∧
        a.toInt + b.toInt + c.toNat < (2 : Int) ^ (n - 1)))) ∧
    (let r := subWith a b c
      let f := subFlags a b c
      (r.toNat : Int) = ((a.toNat : Int) - b.toNat - c.toNat) % 2 ^ n ∧ (f.n = true ↔ r.toInt < 0) ∧
      (f.z = true ↔ r.toNat = 0) ∧ (f.c = true ↔ (a.toNat : Int) - b.toNat - c.toNat < 0) ∧
      (f.v = true ↔ ¬(-(2 : Int) ^ (n - 1) ≤ a.toInt - b.toInt - c.toNat ∧
        a.toInt - b.toInt - c.toNat < (2 : Int) ^ (n - 1))))

/-- ADD:G, SUB, ADDX, SUBX (41_arithmetic.md R152, R155, R157, R159): Rd gets the sum or difference, with C for the extended
forms, whose Z can only be cleared (`Z_STICKY`, D11; notes/assumptions/17.md). ADDS and SUBS (R154, R158): all 16 bits of Rd,
the source sign-extended, no flag; the extension, and the word size of Rd in SUBS, are the spec's choice D7 (GK14,
notes/assumptions/33.md). ADD:Q (R153): 1, 2, -1 or -2 added to the operand in place, with the flags of the addition of that
number (C as the spec's decision D10 reads it, notes/assumptions/35.md). -/
def Obligations.AddSubResult : Prop :=
  (∀ (sz : Size) (src : SrcEa) (d : Reg) (b : BitVec sz.bits) (s s1 : State), fetchSource sz (some d) src s = .ok (b, s1) →
     let a := s.regOp sz d
     let c := s.flags.c
     (∃ t, exec (.addG sz src d) s = .next t ∧ wroteReg sz src d (a + b) (addFlags a b false) s t) ∧
     (∃ t, exec (.sub sz src d) s = .next t ∧ wroteReg sz src d (a - b) (subFlags a b false) s t) ∧
     (∃ t, exec (.addx sz src d) s = .next t ∧
       wroteReg sz src d (addWith a b c)
         { addFlags a b c with z := s.flags.z && decide (addWith a b c = 0) } s t) ∧
     (∃ t, exec (.subx sz src d) s = .next t ∧
       wroteReg sz src d (subWith a b c)
         { subFlags a b c with z := s.flags.z && decide (subWith a b c = 0) } s t)) ∧
  (∀ (sz : Size) (src : SrcEa) (d : Reg) (b : BitVec sz.bits) (s s1 : State), fetchSource sz (some d) src s = .ok (b, s1) →
     ∀ p ∈ [(Instr.adds sz src d, s.reg d + b.signExtend 16), (Instr.subs sz src d, s.reg d - b.signExtend 16)],
       ∃ t, exec p.1 s = .next t ∧ t.reg d = p.2 ∧ t.flags = s.flags ∧ t.pc = s.pc ∧ srcMoved sz src s t ∧
         framed (d :: srcAuto src) [] s t) ∧
  (∀ (sz : Size) (dst : DstEa) (v : BitVec sz.bits) (l : Loc) (s s1 : State), fetchDest sz none dst s = .ok (v, l, s1) →
     ∀ p ∈ [(Instr.addQ1 sz dst, (1 : Int)), (Instr.addQ2 sz dst, 2), (Instr.addQm1 sz dst, -1), (Instr.addQm2 sz dst, -2)],
       ∃ t, exec p.1 s = .next t ∧ wroteOperand sz dst l (BitVec.ofInt sz.bits (v.toInt + p.2)) s t ∧
         t.flags = addFlags v (BitVec.ofInt sz.bits p.2) false)

/-- CMP in its five forms sets the flags of the subtraction and writes nothing (R163 to R166). -/
def Obligations.CompareResult : Prop :=
  (∀ (sz : Size) (src : SrcEa) (d : Reg) (b : BitVec sz.bits) (s s1 : State),
    fetchSource sz (some d) src s = .ok (b, s1) → ∃ t, exec (.cmpG sz src d) s = .next t ∧
      t.flags = subFlags (s.regOp sz d) b false ∧ t.pc = s.pc ∧ srcMoved sz src s t ∧ framed (srcAuto src) [] s t) ∧
  (∀ (v : Byte) (m : MemEa) (a : Byte) (l : Loc) (s s1 : State),
    fetchDest .byte none (.mem m) s = .ok (a, l, s1) → ∃ t, exec (.cmpGImm8 v m) s = .next t ∧
      testedOperand .byte (.mem m) (subFlags a v false) s t) ∧
  (∀ (v : Word) (m : MemEa) (a : Word) (l : Loc) (s s1 : State),
    fetchDest .word none (.mem m) s = .ok (a, l, s1) → ∃ t, exec (.cmpGImm16 v m) s = .next t ∧
      testedOperand .word (.mem m) (subFlags a v false) s t) ∧
  (∀ (v : Byte) (w : Word) (d : Reg) (s : State),
    (∃ t, exec (.cmpE v d) s = .next t ∧ t.flags = subFlags (s.regOp .byte d) v false ∧ t.pc = s.pc ∧
      framed [] [] s t) ∧
    (∃ t, exec (.cmpI w d) s = .next t ∧ t.flags = subFlags (s.reg d) w false ∧ t.pc = s.pc ∧ framed [] [] s t))

/-- DADD and DSUB on packed decimal digits (R156, R160): the digits and C are the decimal sum or difference with C, N and V
are kept, Z can only be cleared; any other operand is refused (U10). Choices of the spec: two packed digits in a byte (GK25,
notes/assumptions/51.md), Z (D11, notes/assumptions/17.md) and the refusal (D37, notes/assumptions/20.md). -/
def Obligations.DecimalResult : Prop :=
  ∀ (r d : Reg) (s : State),
    let a := s.regOp .byte d
    let b := s.regOp .byte r
    (isDecimal a = true → isDecimal b = true →
      (∃ t, exec (.dadd r d) s = .next t ∧
        ofDecimal (t.regOp .byte d) + 100 * t.flags.c.toNat = ofDecimal a + ofDecimal b + s.flags.c.toNat ∧
        isDecimal (t.regOp .byte d) = true ∧ t.flags.n = s.flags.n ∧ t.flags.v = s.flags.v ∧
        t.flags.z = (s.flags.z && decide (t.regOp .byte d = 0)) ∧ upperKept .byte d s t ∧ t.pc = s.pc ∧
        framed [d] [] s t) ∧
      (∃ t, exec (.dsub r d) s = .next t ∧
        ofDecimal (t.regOp .byte d) + ofDecimal b + s.flags.c.toNat = ofDecimal a + 100 * t.flags.c.toNat ∧
        isDecimal (t.regOp .byte d) = true ∧ t.flags.n = s.flags.n ∧ t.flags.v = s.flags.v ∧
        t.flags.z = (s.flags.z && decide (t.regOp .byte d = 0)) ∧ upperKept .byte d s t ∧ t.pc = s.pc ∧
        framed [d] [] s t)) ∧
    (¬(isDecimal a = true ∧ isDecimal b = true) →
      exec (.dadd r d) s = .refused .nonDecimalOperand ∧ exec (.dsub r d) s = .refused .nonDecimalOperand)

/-- MULXU (R161): the whole unsigned product, in Rd or in Rd and Rd+1; N and Z describe it, V and C are 0. The word form with
an odd Rd is refused (U17). Choices of the spec: the register pair and the refusal (D12, notes/assumptions/18.md), and N and Z
over the whole product (D35, notes/assumptions/46.md). That the word form completes when Rd+1 is the auto-modified base of the
operand, and takes Rd+1 after that modification, is the model's reading of U7 (notes/assumptions/19.md). -/
def Obligations.MultiplyResult : Prop :=
  (∀ (src : SrcEa) (d : Reg) (b : Byte) (s s1 : State), fetchSource .byte (some d) src s = .ok (b, s1) →
    ∃ t, exec (.mulxu .byte src d) s = .next t ∧ (t.reg d).toNat = (s.regOp .byte d).toNat * b.toNat ∧
      t.flags = { n := (t.reg d).msb, z := decide (t.reg d = 0), v := false, c := false } ∧ t.pc = s.pc ∧
      sameRegs [d] s1 t ∧ sameControl s t ∧ sameMemory [] s t) ∧
  (∀ (src : SrcEa) (d : Reg) (b : Word) (s s1 : State), fetchSource .word (some d) src s = .ok (b, s1) →
    (d.val % 2 = 0 → ∃ t, exec (.mulxu .word src d) s = .next t ∧
      (t.reg d).toNat * 65536 + (t.reg (d + 1)).toNat = (s1.reg (d + 1)).toNat * b.toNat ∧
      t.flags = { n := (t.reg d).msb, z := decide (t.reg d = 0 ∧ t.reg (d + 1) = 0), v := false, c := false } ∧
      t.pc = s.pc ∧ sameRegs [d, d + 1] s1 t ∧ sameControl s t ∧ sameMemory [] s t) ∧
    (d.val % 2 = 1 → exec (.mulxu .word src d) s = .refused .oddPairRegister))

/-- DIVXU with a quotient that fits (R162): dividend = quotient * divisor + remainder, the remainder below the divisor, N and Z
from the quotient, V and C 0. Choices of the spec: the register pair (D12, notes/assumptions/18.md), and N and Z over the
quotient (D35, notes/assumptions/46.md). That the word form completes when Rd+1 is the auto-modified base of the operand, and
takes Rd+1 after that modification, is the model's reading of U7 (notes/assumptions/19.md). -/
def Obligations.DivideResult : Prop :=
  (∀ (src : SrcEa) (d : Reg) (b : Byte) (s s1 : State), fetchSource .byte (some d) src s = .ok (b, s1) →
    b ≠ 0 → (s.reg d).toNat / b.toNat < 2 ^ 8 →
    ∃ t, exec (.divxu .byte src d) s = .next t ∧
      (s.reg d).toNat = (t.reg d).toNat % 256 * b.toNat + (t.reg d).toNat / 256 ∧ (t.reg d).toNat / 256 < b.toNat ∧
      t.flags = { n := (t.reg d).getLsbD 7, z := decide ((t.reg d).toNat % 256 = 0), v := false, c := false } ∧
      t.pc = s.pc ∧ sameRegs [d] s1 t ∧ sameControl s t ∧ sameMemory [] s t) ∧
  (∀ (src : SrcEa) (d : Reg) (b : Word) (s s1 : State), fetchSource .word (some d) src s = .ok (b, s1) →
    (d.val % 2 = 0 → b ≠ 0 → ((s.reg d).toNat * 65536 + (s1.reg (d + 1)).toNat) / b.toNat < 2 ^ 16 →
      ∃ t, exec (.divxu .word src d) s = .next t ∧
        (s.reg d).toNat * 65536 + (s1.reg (d + 1)).toNat = (t.reg (d + 1)).toNat * b.toNat + (t.reg d).toNat ∧
        (t.reg d).toNat < b.toNat ∧
        t.flags = { n := (t.reg (d + 1)).msb, z := decide (t.reg (d + 1) = 0), v := false, c := false } ∧
        t.pc = s.pc ∧ sameRegs [d, d + 1] s1 t ∧ sameControl s t ∧ sameMemory [] s t) ∧
    (d.val % 2 = 1 → exec (.divxu .word src d) s = .refused .oddPairRegister))

/-- DIVXU's two special outcomes (R162, 60_exceptions.md R303): a quotient that does not fit sets V and clears C and leaves
the other registers, memory and control registers alone, with nothing said of Rd, Rd+1, N and Z (U5, notes/assumptions/21.md);
a divisor of 0 takes the ZeroDivide exception after the operand is read, with Rd and the flags unchanged. Choices of the spec:
that sequence and the return address (D13, notes/assumptions/48.md) and the vector entry 3 (D19, notes/assumptions/16.md). That
the word form goes on when Rd+1 is the auto-modified base of the operand, and takes Rd+1 after that modification, is the
model's reading of U7 (notes/assumptions/19.md). -/
def Obligations.DivideOverflowAndZero : Prop :=
  (∀ (src : SrcEa) (d : Reg) (b : Byte) (s s1 : State), fetchSource .byte (some d) src s = .ok (b, s1) →
    b ≠ 0 → 2 ^ 8 ≤ (s.reg d).toNat / b.toNat → ∃ t, exec (.divxu .byte src d) s = .next t ∧ t.flags.v = true ∧
      t.flags.c = false ∧ t.pc = s.pc ∧ sameRegs [d] s1 t ∧ sameControl s t ∧ sameMemory [] s t) ∧
  (∀ (src : SrcEa) (d : Reg) (b : Word) (s s1 : State), fetchSource .word (some d) src s = .ok (b, s1) →
    d.val % 2 = 0 → b ≠ 0 → 2 ^ 16 ≤ ((s.reg d).toNat * 65536 + (s1.reg (d + 1)).toNat) / b.toNat →
    ∃ t, exec (.divxu .word src d) s = .next t ∧ t.flags.v = true ∧ t.flags.c = false ∧ t.pc = s.pc ∧
      sameRegs [d, d + 1] s1 t ∧ sameControl s t ∧ sameMemory [] s t) ∧
  (∀ (sz : Size) (src : SrcEa) (d : Reg) (s s1 : State) (cp : Byte) (pc : Word),
    fetchSource sz (some d) src s = .ok (0, s1) → (sz = .word → d.val % 2 = 0) → s1.sp.getLsbD 0 = false →
    vectorGives Config.vecZeroDiv cp pc s1 → ∃ t, exec (.divxu sz src d) s = .next t ∧ entered s.pc cp pc s1 t)

/-- EXTS extends the sign of the low byte and EXTU zeros (41_arithmetic.md R167, R168): encodings and lengths, the register,
the flags, N and Z the same whether taken from the byte or the word, nothing else changed, and the examples. -/
def Obligations.ExtendResult : Prop :=
  (∀ (d : Reg) (s : State),
    encode (.exts d) = [0b10100#5 ++ BitVec.ofFin (w := 3) d, 0b00010001] ∧
    encode (.extu d) = [0b10100#5 ++ BitVec.ofFin (w := 3) d, 0b00010010] ∧
    (∃ t, exec (.exts d) s = .next t ∧ t.reg d = ((s.reg d).extractLsb' 0 8).signExtend 16 ∧
      t.flags = { n := (t.reg d).getLsbD 15, z := decide (t.reg d = 0), v := false, c := false } ∧
      t.flags.n = (s.reg d).getLsbD 7 ∧ t.flags.z = decide ((s.reg d).extractLsb' 0 8 = 0) ∧
      t.pc = s.pc ∧ framed [d] [] s t) ∧
    (∃ t, exec (.extu d) s = .next t ∧ t.reg d = ((s.reg d).extractLsb' 0 8).setWidth 16 ∧
      t.flags = { n := false, z := decide (t.reg d = 0), v := false, c := false } ∧ (t.reg d).getLsbD 15 = false ∧
      t.pc = s.pc ∧ framed [d] [] s t)) ∧
  decode [0xA0, 0x11] = .instr (.exts 0) [] ∧ decode [0xA0, 0x12] = .instr (.extu 0) [] ∧
  ∀ s : State, s.reg 0 = 0x1280 →
    (∃ t, exec (.exts 0) s = .next t ∧ t.reg 0 = 0xFF80 ∧ t.flags.n = true ∧ t.flags.z = false) ∧
    (∃ t, exec (.extu 0) s = .next t ∧ t.reg 0 = 0x0080 ∧ t.flags.n = false ∧ t.flags.z = false)

/-- TST, CLR, NEG, TAS and NOT (R169 to R172, 43_logic.md R209). TST writes nothing; CLR writes 0 without reading; NEG gives
0 - v with V = 0 but for the most negative operand, of which V nothing is said (U12); TAS sets bit 7 after the flags are
taken; NOT inverts every bit and keeps C. -/
def Obligations.UnaryResult : Prop :=
  (∀ (sz : Size) (dst : DstEa) (v : BitVec sz.bits) (l : Loc) (s s1 : State),
    fetchDest sz none dst s = .ok (v, l, s1) →
    (∃ t, exec (.tst sz dst) s = .next t ∧
      testedOperand sz dst { n := v.msb, z := decide (v = 0), v := false, c := false } s t) ∧
    (∃ t, exec (.neg sz dst) s = .next t ∧ wroteOperand sz dst l (0 - v) s t ∧ t.flags.n = (0 - v).msb ∧
      t.flags.z = decide (v = 0) ∧ t.flags.c = decide (v ≠ 0) ∧ (v.toNat ≠ 2 ^ (sz.bits - 1) → t.flags.v = false)) ∧
    (∃ t, exec (.not sz dst) s = .next t ∧ wroteOperand sz dst l (~~~v) s t ∧
      t.flags = { n := !v.msb, z := decide (~~~v = 0), v := false, c := s.flags.c })) ∧
  (∀ (sz : Size) (dst : DstEa) (l : Loc) (s s1 : State), locateDst sz none dst s = .ok (l, s1) →
    (∀ a auto, l = .mem a auto → aligned sz a = true) → ∃ t, exec (.clr sz dst) s = .next t ∧ wroteOperand sz dst l 0 s t ∧
      t.flags = { n := false, z := true, v := false, c := false }) ∧
  (∀ (dst : DstEa) (v : Byte) (l : Loc) (s s1 : State), fetchDest .byte none dst s = .ok (v, l, s1) →
    ∃ t, exec (.tas dst) s = .next t ∧ wroteOperand .byte dst l (v ||| 0x80) s t ∧
      t.flags = { n := v.msb, z := decide (v = 0), v := false, c := false })

/-! ## Shift, logic, bits -/

/-- The shifts in numbers (42_shift.md R190 to R198): the result, and C the bit that left; V only after SHAL, where the sign
changed. N and Z describe the result. One bit each is the spec's choice D14 (notes/assumptions/36.md). -/
def Obligations.ShiftResult : Prop :=
  ∀ (sz : Size) (dst : DstEa) (v : BitVec sz.bits) (l : Loc) (s s1 : State), fetchDest sz none dst s = .ok (v, l, s1) →
    let n := sz.bits
    let c := s.flags.c.toNat
    let top := v.msb
    let low := decide (v.toNat % 2 = 1)
    ∀ p ∈ [(Instr.shal sz dst, 2 * v.toNat % 2 ^ n, decide (¬(-(2 : Int) ^ (n - 1) ≤ 2 * v.toInt ∧
            2 * v.toInt < (2 : Int) ^ (n - 1))), top),
        (Instr.shar sz dst, v.toNat / 2 + 2 ^ (n - 1) * top.toNat, false, low),
        (Instr.shll sz dst, 2 * v.toNat % 2 ^ n, false, top),
        (Instr.shlr sz dst, v.toNat / 2, false, low),
        (Instr.rotl sz dst, 2 * v.toNat % 2 ^ n + top.toNat, false, top),
        (Instr.rotr sz dst, v.toNat / 2 + 2 ^ (n - 1) * low.toNat, false, low),
        (Instr.rotxl sz dst, 2 * v.toNat % 2 ^ n + c, false, top),
        (Instr.rotxr sz dst, v.toNat / 2 + 2 ^ (n - 1) * c, false, low)],
      ∃ t, exec p.1 s = .next t ∧ wroteOperand sz dst l (BitVec.ofNat n p.2.1) s t ∧ p.2.1 < 2 ^ n ∧
        t.flags = { n := decide (2 ^ (n - 1) ≤ p.2.1), z := decide (p.2.1 = 0), v := p.2.2.1, c := p.2.2.2 }

/-- AND, OR, XOR (43_logic.md R205 to R208): each bit of the result, N and Z from it, V = 0, C kept. -/
def Obligations.LogicResult : Prop :=
  ∀ (sz : Size) (src : SrcEa) (d : Reg) (b : BitVec sz.bits) (s s1 : State), fetchSource sz (some d) src s = .ok (b, s1) →
    let a := s.regOp sz d
    ∀ p ∈ [(Instr.and sz src d, fun x y : Bool => x && y), (Instr.or sz src d, fun x y => x || y),
        (Instr.xor sz src d, fun x y => x != y)],
      ∃ (t : State) (r : BitVec sz.bits), exec p.1 s = .next t ∧
        (∀ k < sz.bits, r.getLsbD k = p.2 (a.getLsbD k) (b.getLsbD k)) ∧
        wroteReg sz src d r { n := r.msb, z := decide (r = 0), v := false, c := s.flags.c } s t

/-- BSET, BCLR, BNOT and BTST with an immediate bit number or with bits 3 to 0 of a register (44_bit.md R215 to R219): Z is the
inverse of the old bit, the bit is set, cleared, inverted or left, the other bits and flags stay. A bit number of 8 to 15 on
a byte operand is refused in all eight forms (U2), once the operand is located. That only bits 3 to 0 of Rs count and that
such a number is refused are the spec's choice D15, and that the operand is located first is the model's
(notes/assumptions/38.md). -/
def Obligations.BitResult : Prop :=
  (∀ (sz : Size) (dst : DstEa) (k : BitVec 4) (r : Reg) (v : BitVec sz.bits) (l : Loc) (s s1 : State),
     let done (i : Instr) (k : Nat) (new : Bool → Bool) : Prop :=
       ∃ (t : State) (w : BitVec sz.bits), exec i s = .next t ∧
         (∀ j < sz.bits, w.getLsbD j = if j = k then new (v.getLsbD j) else v.getLsbD j) ∧
         wroteOperand sz dst l w s t ∧ t.flags = { s.flags with z := !v.getLsbD k }
     let tested (i : Instr) (k : Nat) : Prop :=
       ∃ t, exec i s = .next t ∧ testedOperand sz dst { s.flags with z := !v.getLsbD k } s t
     (fetchDest sz none dst s = .ok (v, l, s1) → k.toNat < sz.bits →
       done (.bsetImm sz k dst) k.toNat (fun _ => true) ∧ done (.bclrImm sz k dst) k.toNat (fun _ => false) ∧
       done (.bnotImm sz k dst) k.toNat (fun b => !b) ∧ tested (.btstImm sz k dst) k.toNat) ∧
     (fetchDest sz (some r) dst s = .ok (v, l, s1) → (s.reg r).toNat % 16 < sz.bits →
       done (.bsetReg sz r dst) ((s.reg r).toNat % 16) (fun _ => true) ∧
       done (.bclrReg sz r dst) ((s.reg r).toNat % 16) (fun _ => false) ∧
       done (.bnotReg sz r dst) ((s.reg r).toNat % 16) (fun b => !b) ∧ tested (.btstReg sz r dst) ((s.reg r).toNat % 16))) ∧
  (∀ (dst : DstEa) (k : BitVec 4) (r : Reg) (s : State),
     ((∃ l s1, locateDst .byte none dst s = .ok (l, s1)) → 8 ≤ k.toNat →
       ∀ i ∈ [Instr.bsetImm .byte k dst, .bclrImm .byte k dst, .bnotImm .byte k dst, .btstImm .byte k dst],
         exec i s = .refused .bitNumberOnByte) ∧
     ((∃ l s1, locateDst .byte (some r) dst s = .ok (l, s1)) → 8 ≤ (s.reg r).toNat % 16 →
       ∀ i ∈ [Instr.bsetReg .byte r dst, .bclrReg .byte r dst, .bnotReg .byte r dst, .btstReg .byte r dst],
         exec i s = .refused .bitNumberOnByte))

/-! ## Branches -/

/-- BRA adds its displacement, sign-extended from 8 bits or of 16 bits, to the address of the next instruction, modulo 2^16
(45_branch.md R226 to R228, with D5 and D6), and changes nothing else. BLS is BRA when C = 1 or Z = 1 and nothing otherwise
(R231, corrected by the spec, 90_conflicts.md C5). JMP: the effective address becomes PC, nothing else changes (R244, D6).
D5 and D6 are choices of the spec (notes/assumptions/32.md, 33.md). -/
def Obligations.BranchAndJumpTarget : Prop :=
  (∀ (x : Byte) (w : Word) (s : State),
     exec (.bra8 x) s = .next (s.setPc (BitVec.ofInt 16 (s.pc.toInt + x.toInt))) ∧
     exec (.bra16 w) s = .next (s.setPc (BitVec.ofInt 16 (s.pc.toInt + w.toInt)))) ∧
  (∀ (x : Byte) (w : Word) (s : State),
     exec (.bls8 x) s = (if s.flags.c = true ∨ s.flags.z = true then exec (.bra8 x) s else .next s) ∧
     exec (.bls16 w) s = (if s.flags.c = true ∨ s.flags.z = true then exec (.bra16 w) s else .next s)) ∧
  (∀ (n : Reg) (x : Byte) (w : Word) (s : State),
     exec (.jmpInd n) s = .next (s.setPc (s.reg n)) ∧ exec (.jmpAbs w) s = .next (s.setPc w) ∧
     exec (.jmpDisp8 n x) s = .next (s.setPc (s.reg n + x.signExtend 16)) ∧
     exec (.jmpDisp16 n w) s = .next (s.setPc (s.reg n + w)))

/-- BRN is never taken and BHI, BCC, BCS, BNE, BEQ are taken exactly on their conditions (45_branch.md R229, R230, R232 to
R235): their encodings, and that each is BRA when its condition holds and does nothing otherwise. -/
def Obligations.BranchConditionsOnCarryAndZero : Prop :=
  ∀ (x : Byte) (w : Word) (s : State),
    let h := w.extractLsb' 8 8
    let l := w.extractLsb' 0 8
    let c := s.flags.c
    let z := s.flags.z
    ∀ p ∈ [(Instr.brn8 x, Instr.brn16 w, (0x21 : Byte), (0x31 : Byte), false),
        (.bhi8 x, .bhi16 w, 0x22, 0x32, decide (c = false ∧ z = false)),
        (.bcc8 x, .bcc16 w, 0x24, 0x34, decide (c = false)), (.bcs8 x, .bcs16 w, 0x25, 0x35, decide (c = true)),
        (.bne8 x, .bne16 w, 0x26, 0x36, decide (z = false)), (.beq8 x, .beq16 w, 0x27, 0x37, decide (z = true))],
      encode p.1 = [p.2.2.1, x] ∧ encode p.2.1 = [p.2.2.2.1, h, l] ∧
      exec p.1 s = (if p.2.2.2.2 then exec (.bra8 x) s else .next s) ∧
      exec p.2.1 s = (if p.2.2.2.2 then exec (.bra16 w) s else .next s)

/-- BVC, BVS, BPL, BMI, BGE, BLT, BGT, BLE are taken exactly on their conditions (45_branch.md R236 to R243), as above. -/
def Obligations.BranchConditionsOnSignAndOverflow : Prop :=
  ∀ (x : Byte) (w : Word) (s : State),
    let h := w.extractLsb' 8 8
    let l := w.extractLsb' 0 8
    let n := s.flags.n
    let v := s.flags.v
    let z := s.flags.z
    ∀ p ∈ [(Instr.bvc8 x, Instr.bvc16 w, (0x28 : Byte), (0x38 : Byte), decide (v = false)),
        (.bvs8 x, .bvs16 w, 0x29, 0x39, decide (v = true)), (.bpl8 x, .bpl16 w, 0x2A, 0x3A, decide (n = false)),
        (.bmi8 x, .bmi16 w, 0x2B, 0x3B, decide (n = true)), (.bge8 x, .bge16 w, 0x2C, 0x3C, decide (n = v)),
        (.blt8 x, .blt16 w, 0x2D, 0x3D, decide (n ≠ v)), (.bgt8 x, .bgt16 w, 0x2E, 0x3E, decide (z = false ∧ n = v)),
        (.ble8 x, .ble16 w, 0x2F, 0x3F, decide (z = true ∨ n ≠ v))],
      encode p.1 = [p.2.2.1, x] ∧ encode p.2.1 = [p.2.2.2.1, h, l] ∧
      exec p.1 s = (if p.2.2.2.2 then exec (.bra8 x) s else .next s) ∧
      exec p.2.1 s = (if p.2.2.2.2 then exec (.bra16 w) s else .next s)

/-- A comparison and a branch read together (R225, with the spec's choices D5, D6 and D9; notes/assumptions/32.md, 33.md,
35.md): after CMP:G the eight ordering branches compare Rd with the
operand, BHI, BLS, BCC, BCS as unsigned and BGE, BLT, BGT, BLE as signed numbers. -/
def Obligations.CompareThenBranchOrders : Prop :=
  ∀ (sz : Size) (src : SrcEa) (d : Reg) (b : BitVec sz.bits) (s s1 t : State), fetchSource sz (some d) src s = .ok (b, s1) →
    exec (.cmpG sz src d) s = .next t →
    let a := s.regOp sz d
    ∀ x : Byte, ∀ p ∈ [(Instr.bhi8 x, decide (b.toNat < a.toNat)), (.bls8 x, decide (a.toNat ≤ b.toNat)),
        (.bcc8 x, decide (b.toNat ≤ a.toNat)), (.bcs8 x, decide (a.toNat < b.toNat)),
        (.bge8 x, decide (b.toInt ≤ a.toInt)), (.blt8 x, decide (a.toInt < b.toInt)),
        (.bgt8 x, decide (b.toInt < a.toInt)), (.ble8 x, decide (a.toInt ≤ b.toInt))],
      exec p.1 t = if p.2 then .next (t.setPc (t.pc + x.signExtend 16)) else .next t

/-- SCB/F, SCB/NE and SCB/EQ (R253 to R255): when the condition holds nothing happens; otherwise Rn is decremented and the
branch is taken unless Rn became H'FFFF. No flag changes. That the displacement is signed and relative to the next instruction
is the spec's choice (D6 and D5, notes/assumptions/33.md and 32.md). -/
def Obligations.LoopOnCount : Prop :=
  ∀ (n : Reg) (x : Byte) (s : State),
    ∀ p ∈ [(Instr.scbF n x, false), (Instr.scbNe n x, !s.flags.z), (Instr.scbEq n x, s.flags.z)],
      ∃ t, exec p.1 s = .next t ∧ t.flags = s.flags ∧ framed [n] [] s t ∧
        (p.2 = true → t.reg n = s.reg n ∧ t.pc = s.pc) ∧
        (p.2 = false → t.reg n = s.reg n - 1 ∧
          (s.reg n = 0 → t.pc = s.pc) ∧ (s.reg n ≠ 0 → t.pc = s.pc + x.signExtend 16))

/-- BSR and JSR push the address of the next instruction from an even SP and go to the target, computed before the push
(R246, R247). Choices of the spec: the address (D5), the signed displacements (D6) and the order (D40)
(notes/assumptions/32.md, 33.md, 44.md). -/
def Obligations.CallResult : Prop :=
  ∀ (n : Reg) (x : Byte) (w : Word) (s : State), s.sp.getLsbD 0 = false →
    ∀ p ∈ [(Instr.bsr8 x, s.pc + x.signExtend 16), (Instr.bsr16 w, s.pc + w), (Instr.jsrInd n, s.reg n),
        (Instr.jsrAbs w, w), (Instr.jsrDisp8 n x, s.reg n + x.signExtend 16), (Instr.jsrDisp16 n w, s.reg n + w)],
      ∃ t, exec p.1 s = .next t ∧ pushedWord s.pc p.2 s.cp s t

/-- RTS and RTD pop PC from an even SP; RTD then adds its immediate to SP (R249, R251). RTE pops SR, in maximum mode CP, and PC
(46_system.md R267). Choices of the spec: the sign extension of RTD #xx:8 (D7, notes/assumptions/33.md), the word of CP (D20,
notes/assumptions/39.md) and the bits of SR (D18, notes/assumptions/15.md). That an RTE that sets T runs is the model's choice,
which the baseline refuses (D42, notes/assumptions/12.md). -/
def Obligations.ReturnResult : Prop :=
  (∀ (x : Byte) (w pc : Word) (s : State), s.sp.getLsbD 0 = false → s.wordAt (phys s .stack s.sp) = some pc →
     ∀ p ∈ [(Instr.rts, (0 : Word)), (Instr.rtd8 x, x.signExtend 16), (Instr.rtd16 w, w)],
       ∃ t, exec p.1 s = .next t ∧ t.pc = pc ∧ t.sp = s.sp + 2 + p.2 ∧ t.flags = s.flags ∧
         framed [Config.spIndex] [] s t) ∧
  (∀ (sr hi pc : Word) (s : State), s.sp.getLsbD 0 = false → s.wordAt (phys s .stack s.sp) = some sr →
     (s.mode = .min → s.wordAt (phys s .stack (s.sp + 2)) = some pc →
       exec .rte s = .next (((s.setSp (s.sp + 4)).setSr (Status.ofWord sr)).setPc pc)) ∧
     (s.mode = .max → s.wordAt (phys s .stack (s.sp + 2)) = some hi → s.wordAt (phys s .stack (s.sp + 4)) = some pc →
       exec .rte s = .next ((((s.setSp (s.sp + 6)).setSr (Status.ofWord sr)).setCp (hi.extractLsb' 0 8)).setPc pc)))

/-- After a call, RTS in any state that has its SP, TP, mode and return address returns to the instruction after the call with
SP as before the call, and changes nothing else (R246, R247, R249); a call keeps CP. After PJSR, PRTS does so with CP and PC
(R248, R250), and directly after PJSR it leaves everything as before but the bytes of the frame. The words of the frame are the
spec's choice D20 (notes/assumptions/39.md). -/
def Obligations.ReturnUndoesCall : Prop :=
  (∀ (n : Reg) (x : Byte) (w : Word) (s t : State), s.sp.getLsbD 0 = false →
     ∀ i ∈ [Instr.bsr8 x, .bsr16 w, .jsrInd n, .jsrAbs w, .jsrDisp8 n x, .jsrDisp16 n w], exec i s = .next t →
       t.cp = s.cp ∧ ∀ t' : State, t'.sp = t.sp → t'.mode = t.mode → t'.tp = t.tp →
         t'.wordAt (phys s .stack t.sp) = t.wordAt (phys s .stack t.sp) →
         exec .rts t' = .next ((t'.setSp s.sp).setPc s.pc)) ∧
  (∀ (n : Reg) (p : Byte) (w : Word) (s t : State), s.sp.getLsbD 0 = false →
     ∀ i ∈ [Instr.pjsrAbs p w, .pjsrInd n], exec i s = .next t →
       (∀ t' : State, t'.sp = t.sp → t'.mode = t.mode → t'.tp = t.tp →
         (∀ a ∈ [t.sp, t.sp + 2], t'.wordAt (phys s .stack a) = t.wordAt (phys s .stack a)) →
         exec .prts t' = .next (((t'.setSp s.sp).setCp s.cp).setPc s.pc)) ∧
       ∃ u, exec .prts t = .next u ∧ u.pc = s.pc ∧ u.sr = s.sr ∧ sameRegs [] s u ∧ sameControl s u ∧
         sameMemory (stackBytes s 2) s u)

/-- The page instructions in maximum mode (R245, R248, R250, R252): PJMP loads CP and PC; PJSR pushes PC and then CP, CP in the
low byte of its word; PRTS and PRTD pop CP and PC. In minimum mode all are refused, and so are PJMP and PJSR through R7 in
maximum mode (U17). Choices of the spec: the word of CP (D20, notes/assumptions/39.md), the pair Rn, Rn+1 and the refusals
(D31, notes/assumptions/43.md), and the sign extension of PRTD #xx:8 (D7, notes/assumptions/33.md). -/
def Obligations.PageInstructionResult : Prop :=
  (∀ (n : Reg) (x p : Byte) (w pc hi : Word) (s : State), s.mode = .max →
     exec (.pjmpAbs p w) s = .next ((s.setCp p).setPc w) ∧
     (n ≠ 7 → exec (.pjmpInd n) s = .next ((s.setCp ((s.reg n).extractLsb' 0 8)).setPc (s.reg (n + 1)))) ∧
     (s.sp.getLsbD 0 = false →
       ∀ q ∈ [(Instr.pjsrAbs p w, p, w), (Instr.pjsrInd n, (s.reg n).extractLsb' 0 8, s.reg (n + 1))],
         (n ≠ 7 ∨ q.1 = .pjsrAbs p w) → ∃ t, exec q.1 s = .next t ∧ t.sp = s.sp - 4 ∧
           t.wordAt (phys s .stack (s.sp - 2)) = some s.pc ∧ t.byteAt (phys s .stack (s.sp - 3)) = some s.cp ∧
           t.cp = q.2.1 ∧ t.pc = q.2.2 ∧ t.sr = s.sr ∧ sameRegs [Config.spIndex] s t ∧ sameMemory (stackBytes s 2) s t ∧
           t.mode = s.mode ∧ t.br = s.br ∧ t.ep = s.ep ∧ t.dp = s.dp ∧ t.tp = s.tp ∧ t.runState = s.runState) ∧
     (s.sp.getLsbD 0 = false → s.wordAt (phys s .stack s.sp) = some hi → s.wordAt (phys s .stack (s.sp + 2)) = some pc →
       ∀ q ∈ [(Instr.prts, (0 : Word)), (Instr.prtd8 x, x.signExtend 16), (Instr.prtd16 w, w)],
         exec q.1 s = .next (((s.setSp (s.sp + 4 + q.2)).setCp (hi.extractLsb' 0 8)).setPc pc))) ∧
  (∀ (n : Reg) (x p : Byte) (w : Word) (s : State),
     (s.mode = .min → ∀ i ∈ [Instr.pjmpAbs p w, .pjmpInd n, .pjsrAbs p w, .pjsrInd n, .prts, .prtd8 x, .prtd16 w],
       exec i s = .refused .pageInstructionInMinimumMode) ∧
     (s.mode = .max → exec (.pjmpInd 7) s = .refused .pageTargetInR7 ∧ exec (.pjsrInd 7) s = .refused .pageTargetInR7))

/-! ## System control and exceptions -/

/-- LINK pushes FP, sets FP to SP and adds its immediate to SP; UNLK takes SP from FP and pops FP (46_system.md R268, R269);
UNLK after LINK restores FP and SP, whatever SP became in between. The sign extension of LINK #xx:8 is the spec's choice D7
(notes/assumptions/33.md). -/
def Obligations.LinkAndUnlink : Prop :=
  ∀ (x : Byte) (w : Word) (s : State),
    (s.sp.getLsbD 0 = false → ∀ p ∈ [(Instr.link8 x, x.signExtend 16), (Instr.link16 w, w)],
      ∃ t, exec p.1 s = .next t ∧ t.reg Config.fpIndex = s.sp - 2 ∧ t.sp = s.sp - 2 + p.2 ∧
        t.wordAt (phys s .stack (s.sp - 2)) = some (s.reg Config.fpIndex) ∧ t.flags = s.flags ∧ t.pc = s.pc ∧
        framed [Config.fpIndex, Config.spIndex] (stackBytes s 1) s t ∧
        ∀ v : Word, ∃ u, exec .unlk (t.setSp v) = .next u ∧ u.reg Config.fpIndex = s.reg Config.fpIndex ∧ u.sp = s.sp) ∧
    ((s.reg Config.fpIndex).getLsbD 0 = false → s.wordAt (phys s .stack (s.reg Config.fpIndex)) = some w →
      ∃ t, exec .unlk s = .next t ∧ t.reg Config.fpIndex = w ∧ t.sp = s.reg Config.fpIndex + 2 ∧ t.flags = s.flags ∧
        t.pc = s.pc ∧ framed [Config.fpIndex, Config.spIndex] [] s t)

/-- An exception entry from an even SP with its vector there completes, and does what R296, R297, R299 and R300 say, in both
modes. The layout of the frame and the vector and the clearing of T are choices, the spec's decisions D20 and D21
(notes/assumptions/39.md, 40.md). -/
def Obligations.ExceptionEntry : Prop :=
  ∀ (n : Nat) (ret : Word) (cp : Byte) (pc : Word) (s : State), s.sp.getLsbD 0 = false → vectorGives n cp pc s →
    ∃ t, takeException n ret s = .ok t ∧ entered ret cp pc s t

/-- TRAPA takes entry 16 + v, and TRAP/VS takes its entry when V = 1 and does nothing when V = 0 (46_system.md R265, R266,
60_exceptions.md R293, R298). Choices of the spec: entry 4 for TRAP/VS (D19, GK6; notes/assumptions/16.md), and in every entry
the clearing of T (D21, notes/assumptions/40.md) and the layout of frame and vector (D20, notes/assumptions/39.md). -/
def Obligations.TrapResult : Prop :=
  ∀ (v : BitVec 4) (cp : Byte) (pc : Word) (s : State),
    (s.sp.getLsbD 0 = false → vectorGives (16 + v.toNat) cp pc s →
      ∃ t, exec (.trapa v) s = .next t ∧ entered s.pc cp pc s t) ∧
    (s.flags.v = true → s.sp.getLsbD 0 = false → vectorGives Config.vecTrapVs cp pc s →
      ∃ t, exec .trapVs s = .next t ∧ entered s.pc cp pc s t) ∧
    (s.flags.v = false → exec .trapVs s = .next s)

/-- An unassigned code at PC takes the InvalidInstruction exception from the state before it, and so does an EA field with an
unassigned OP field, for all ten `<EA>` rows, without changing anything else (30_encoding.md R99, 60_exceptions.md R302); from
an even SP with the vector there the entry completes.
The model vectors it, and the stacked PC is unspecified (R298), so nothing is said of it (notes/assumptions/9.md, 25.md). With T
set the trace exception follows the entry (R312; the model's choice, notes/assumptions/12.md). -/
def Obligations.InvalidInstructionIsTaken : Prop :=
  (∀ s : State, s.runState = .running → decode (fetchWindow s) = .unassigned →
     (s.sr.t = false → step s = ofEntry (raiseInvalidInstruction s)) ∧
     (s.sr.t = true → step s = traceAfter true (ofEntry (raiseInvalidInstruction s))) ∧
     ∀ (cp : Byte) (pc : Word), s.sp.getLsbD 0 = false → vectorGives Config.vecInvalid cp pc s →
       ∃ t ret, raiseInvalidInstruction s = .ok t ∧ entered ret cp pc s t ∧ (s.sr.t = false → step s = .next t)) ∧
  (∀ (sz : Size) (r : Reg) (x : Byte) (w : Word) (cp : Byte) (pc : Word) (s : State), s.sp.getLsbD 0 = false →
     vectorGives Config.vecInvalid cp pc s →
     ∀ i ∈ [Instr.eaRn sz r, .eaInd sz r, .eaDisp8 sz r x, .eaDisp16 sz r w, .eaPreDec sz r, .eaPostInc sz r, .eaAbs8 sz x,
         .eaAbs16 sz w, .eaImm8 x, .eaImm16 w],
       ∃ t ret, exec i s = .next t ∧ entered ret cp pc s t)

/-- AddressError is the entry of `VEC_ADDRERR` from the state before the instruction, with all of it but the register already
written, of which, as of the stacked PC, nothing is said (60_exceptions.md R298, R304, U11); it completes from an even SP with
the vector there, unless SP itself is that register. With SP odd no exception can be taken: the entry ends in the terminal
double fault (R296, D41), and so does every instruction that uses the stack, whose own AddressError cannot be taken either.
UNLK with FP odd takes AddressError with SP written. The vectoring is the model's choice (notes/assumptions/10.md), the double
fault the spec's (notes/assumptions/11.md), and so are the check (D3, notes/assumptions/31.md) and the entry (D19 to D21,
notes/assumptions/16.md, 39.md, 40.md). -/
def Obligations.AddressErrorEntry : Prop :=
  (∀ (touched : Option Reg) (s : State), ∃ (s1 : State) (ret : Word),
     raiseAddressError touched s = takeException Config.vecAddrErr ret s1 ∧ sameRegs touched.toList s s1 ∧
     sameControl s s1 ∧ s1.sr = s.sr ∧ s1.pc = s.pc ∧ sameMemory [] s s1 ∧
     ∀ (cp : Byte) (pc : Word), touched ≠ some Config.spIndex → s.sp.getLsbD 0 = false →
       vectorGives Config.vecAddrErr cp pc s → ∃ t, raiseAddressError touched s = .ok t ∧ entered ret cp pc s1 t) ∧
  (∀ (n : Nat) (ret : Word) (x p : Byte) (w : Word) (v : BitVec 4) (r : Reg) (s : State), s.sp.getLsbD 0 = true →
     takeException n ret s = .error (.fault .doubleFault) ∧
     (∀ i ∈ [Instr.trapa v, .rts, .rtd8 x, .rtd16 w, .rte, .bsr8 x, .bsr16 w, .jsrInd r, .jsrAbs w, .jsrDisp8 r x,
         .jsrDisp16 r w, .link8 x, .link16 w],
       exec i s = .fault .doubleFault) ∧
     (s.flags.v = true → exec .trapVs s = .fault .doubleFault) ∧
     (∀ list : Byte, list.getLsbD 7 = false → listedRegs list ≠ [] →
       exec (.stm list) s = .fault .doubleFault ∧ exec (.ldm list) s = .fault .doubleFault) ∧
     (s.mode = .max →
       (∀ i ∈ [Instr.pjsrAbs p w, .prts, .prtd8 x, .prtd16 w], exec i s = .fault .doubleFault) ∧
       (r ≠ 7 → exec (.pjsrInd r) s = .fault .doubleFault))) ∧
  (∀ s : State, (s.reg Config.fpIndex).getLsbD 0 = true →
     exec .unlk s = ofEntry (raiseAddressError (some Config.spIndex) s))

/-- RTE is the inverse of the entry (46_system.md R267, 60_exceptions.md R308): after any exception entry, RTE gives back PC,
CP, the whole of SR with T and the mask, and every general register, whatever the handler's address, in both modes. That RTE
runs where the frame holds T = 1 is the model's choice, which the baseline refuses (D42, notes/assumptions/12.md). -/
def Obligations.ReturnUndoesEntry : Prop :=
  ∀ (n : Nat) (ret : Word) (s t : State), takeException n ret s = .ok t →
    ∃ u, exec .rte t = .next u ∧ u.pc = ret ∧ u.cp = s.cp ∧ u.sr = s.sr ∧ (∀ r, u.reg r = s.reg r) ∧
      u.br = s.br ∧ u.ep = s.ep ∧ u.dp = s.dp ∧ u.tp = s.tp

/-- SLEEP enters the power-down state and changes nothing else (46_system.md R270); a step begun there changes nothing
(60_exceptions.md R315; the model's form of the end of the run, notes/assumptions/14.md), and no other instruction leaves
normal running. That a step with T = 1 leaves the state again by the trace exception is the model's choice
(notes/assumptions/49.md) and no part of this. -/
def Obligations.SleepEntersPowerDown : Prop :=
  (∀ s : State, exec .sleep s = .next (s.setRunState .powerDown)) ∧
  (∀ s : State, s.runState = .powerDown → step s = .next s) ∧
  (∀ (i : Instr) (s t : State), i ≠ .sleep → s.runState = .running → exec i s = .next t → t.runState = .running)

/-- NOP (46_system.md R276): encoding 00, one byte, no operation but the advance of PC by 1, two states in the table. -/
def Obligations.NopOnlyAdvancesPc : Prop :=
  encode .nop = [0x00] ∧
  (∀ s : State, exec .nop s = .next s) ∧
  (∀ s : State, s.runState = .running → s.sr.t = false → fetchByte s 0 = .ok 0x00 → step s = .next (s.setPc (s.pc + 1))) ∧
  (∀ mode sit, ∃ c, cost mode sit .nop = some c ∧ c.least = 2 ∧ c.most = 2)

/-- LDC writes the control register named, SR and CCR through their implemented bits, and no other; STC writes it to a register or
to a byte of memory, and no flag changes (46_system.md R271, R272, R277). CCR and SR read as their implemented bits, the rest
0 (10_state.md R30; SR's layout is D18, notes/assumptions/15.md). That an LDC that sets T runs is the model's choice, which the
baseline refuses (D42, notes/assumptions/12.md). -/
def Obligations.ControlRegisterTransfer : Prop :=
  (∀ (src : SrcEa) (s s1 : State),
     (∀ v : Word, fetchSource .word none src s = .ok (v, s1) →
       exec (.ldc .word src .sr) s = .next (s1.setSr
         { t := v.getLsbD 15, imask := v.extractLsb' 8 3,
           flags := { n := v.getLsbD 3, z := v.getLsbD 2, v := v.getLsbD 1, c := v.getLsbD 0 } })) ∧
     (∀ v : Byte, fetchSource .byte none src s = .ok (v, s1) →
       exec (.ldc .byte src .ccr) s = .next (s1.setFlags
         { n := v.getLsbD 3, z := v.getLsbD 2, v := v.getLsbD 1, c := v.getLsbD 0 }) ∧
       exec (.ldc .byte src .br) s = .next (s1.setBr v) ∧ exec (.ldc .byte src .ep) s = .next (s1.setEp v) ∧
       exec (.ldc .byte src .dp) s = .next (s1.setDp v) ∧ exec (.ldc .byte src .tp) s = .next (s1.setTp v))) ∧
  (∀ (d : Reg) (m : MemEa) (s : State),
     (∃ t, exec (.stc .word .sr (.reg d)) s = .next t ∧ t.reg d = s.sr.toWord ∧ t.sr = s.sr ∧ t.pc = s.pc ∧
       framed [d] [] s t) ∧
     (s.sr.toWord.getLsbD 15 = s.sr.t ∧ s.sr.toWord.extractLsb' 8 3 = s.sr.imask ∧ s.sr.toWord &&& 0x78F0 = 0 ∧
       s.sr.toWord.getLsbD 3 = s.flags.n ∧ s.sr.toWord.getLsbD 2 = s.flags.z ∧ s.sr.toWord.getLsbD 1 = s.flags.v ∧
       s.sr.toWord.getLsbD 0 = s.flags.c ∧ s.sr.toCcr = s.sr.toWord.extractLsb' 0 8) ∧
     ∀ p ∈ [(CtlReg.ccr, s.sr.toCcr), (CtlReg.br, s.br), (CtlReg.ep, s.ep), (CtlReg.dp, s.dp), (CtlReg.tp, s.tp)],
       (∃ t, exec (.stc .byte p.1 (.reg d)) s = .next t ∧ t.regOp .byte d = p.2 ∧ upperKept .byte d s t ∧ t.sr = s.sr ∧
         t.pc = s.pc ∧ framed [d] [] s t) ∧
       (eaRefusal .byte none m = none → ∃ t, exec (.stc .byte p.1 (.mem m)) s = .next t ∧
         wroteOperand .byte (.mem m) (.mem (memAddr .byte m s) (autoBase m)) p.2 s t ∧ t.flags = s.flags))

/-- ANDC, ORC, XORC combine the control register named with their immediate (R273 to R275, R277, R278): BR, EP, DP, TP as
bytes; CCR and SR through their implemented bits, whose number and places are the spec's choice D18 (R30,
notes/assumptions/15.md). That an ORC or XORC that sets T runs is the model's choice, which the baseline refuses (D42,
notes/assumptions/12.md). -/
def Obligations.ControlImmediateResult : Prop :=
  ∀ (x : Byte) (w : Word) (s : State),
    let bits (v : Byte) : Flags := { n := v.getLsbD 3, z := v.getLsbD 2, v := v.getLsbD 1, c := v.getLsbD 0 }
    let ccr := s.sr.toCcr
    let sr := s.sr.toWord
    (∀ p ∈ [(Instr.andc (.imm8 x) .br, s.br &&& x), (.orc (.imm8 x) .br, s.br ||| x), (.xorc (.imm8 x) .br, s.br ^^^ x)],
      exec p.1 s = .next (s.setBr p.2)) ∧
    (∀ p ∈ [(Instr.andc (.imm8 x) .ep, s.ep &&& x), (.orc (.imm8 x) .ep, s.ep ||| x), (.xorc (.imm8 x) .ep, s.ep ^^^ x)],
      exec p.1 s = .next (s.setEp p.2)) ∧
    (∀ p ∈ [(Instr.andc (.imm8 x) .dp, s.dp &&& x), (.orc (.imm8 x) .dp, s.dp ||| x), (.xorc (.imm8 x) .dp, s.dp ^^^ x)],
      exec p.1 s = .next (s.setDp p.2)) ∧
    (∀ p ∈ [(Instr.andc (.imm8 x) .tp, s.tp &&& x), (.orc (.imm8 x) .tp, s.tp ||| x), (.xorc (.imm8 x) .tp, s.tp ^^^ x)],
      exec p.1 s = .next (s.setTp p.2)) ∧
    (∀ p ∈ [(Instr.andc (.imm8 x) .ccr, ccr &&& x), (.orc (.imm8 x) .ccr, ccr ||| x), (.xorc (.imm8 x) .ccr, ccr ^^^ x)],
      exec p.1 s = .next (s.setFlags (bits p.2))) ∧
    (∀ p ∈ [(Instr.andc (.imm16 w) .sr, sr &&& w), (.orc (.imm16 w) .sr, sr ||| w), (.xorc (.imm16 w) .sr, sr ^^^ w)],
      exec p.1 s = .next (s.setSr { t := p.2.getLsbD 15, imask := p.2.extractLsb' 8 3, flags := bits (p.2.setWidth 8) }))

/-! ## What the platform does, and timing -/

/-- The state after reset as the spec states it (10_state.md R37): T is 0, the mask is 7, normal running, and the reset
sequence leaves these in every state it is applied to, with PC from the vector and memory kept (R330, the spec's decision D24;
notes/assumptions/13.md). -/
def Obligations.ResetValues : Prop :=
  State.reset.sr.t = false ∧ State.reset.sr.imask = 7 ∧ State.reset.runState = .running ∧
  ∀ (s : State) (pc hi : Word),
    (s.mode = .min → s.wordAt 0 = some pc → ∃ t, resetSequence s = .ok t ∧ t.sr.t = false ∧ t.sr.imask = 7 ∧
      t.runState = .running ∧ t.pc = pc ∧ t.mode = s.mode ∧ sameMemory [] s t) ∧
    (s.mode = .max → s.wordAt 0 = some hi → s.wordAt 2 = some pc → ∃ t, resetSequence s = .ok t ∧ t.sr.t = false ∧
      t.sr.imask = 7 ∧ t.runState = .running ∧ t.pc = pc ∧ t.cp = hi.extractLsb' 0 8 ∧ t.mode = s.mode ∧
      sameMemory [] s t)

/-- Interrupt acceptance (60_exceptions.md R297, R310, R315; the spec's general knowledge, notes/assumptions/13.md): a level
not above the mask does nothing; a higher level takes the exception with the next instruction's address, raises the mask to
the level, and ends the power-down state; NMI is accepted at any mask and raises it to 7. -/
def Obligations.InterruptAcceptance : Prop :=
  ∀ (n level : Nat) (cp : Byte) (pc : Word) (s : State),
    (level ≤ s.sr.imask.toNat → acceptInterrupt n level s = .next s) ∧
    (s.sr.imask.toNat < level → level ≤ 7 → s.sp.getLsbD 0 = false → vectorGives n cp pc s →
      ∃ t u, acceptInterrupt n level s = .next t ∧ entered s.pc cp pc s u ∧ t.sr.imask.toNat = level ∧
        t = u.setSr { u.sr with imask := t.sr.imask }) ∧
    (s.sp.getLsbD 0 = false → vectorGives Config.vecNmi cp pc s →
      ∃ t u, acceptNmi s = .next t ∧ entered s.pc cp pc s u ∧ t = u.setSr { u.sr with imask := 7 })

/-- The source's three worked timing examples (70_reset_and_hazards.md R354), and that MOVTPE and MOVFPE alone have a range of
state counts (R348). No adjustment that R352 does not give (notes/assumptions/50.md) enters. -/
def Obligations.TimingExamples : Prop :=
  (let add := Instr.addG .word (.mem (.ind 0)) 1;
    leastStates .min .plain .onChip .onChip false add = some 6 ∧
    leastStates .min .plain .onChip .onChip true add = some 5 ∧
    leastStates .min .plain .slow .onChip false add = some 9 ∧
    leastStates .min .plain .onChip .slow false (.jsrInd 0) = some 13 ∧
    leastStates .min .plain .onChip .slow true (.jsrInd 0) = some 14) ∧
  ∀ mode sit fetch operand odd (i : Instr), (∀ r m, i ≠ .movtpe r m) → (∀ m d, i ≠ .movfpe m d) →
    leastStates mode sit fetch operand odd i = mostStates mode sit fetch operand odd i

end Statements
end

