-- ==== Sys2Proof/Laws/State.lean ====
section
/-! SUPPORT. What each update of a state does to each field, and to the readings of it: true by unfolding, for `simp`. -/

namespace Sys2Proof.Machine

/-! ## `setReg` -/

@[simp] theorem State.setReg_mode (s : State) (r : Reg) (v : Word) : (s.setReg r v).mode = s.mode := rfl
@[simp] theorem State.setReg_regs (s : State) (r : Reg) (v : Word) : (s.setReg r v).regs = s.regs.set r v := rfl
@[simp] theorem State.setReg_pc (s : State) (r : Reg) (v : Word) : (s.setReg r v).pc = s.pc := rfl
@[simp] theorem State.setReg_cp (s : State) (r : Reg) (v : Word) : (s.setReg r v).cp = s.cp := rfl
@[simp] theorem State.setReg_sr (s : State) (r : Reg) (v : Word) : (s.setReg r v).sr = s.sr := rfl
@[simp] theorem State.setReg_br (s : State) (r : Reg) (v : Word) : (s.setReg r v).br = s.br := rfl
@[simp] theorem State.setReg_ep (s : State) (r : Reg) (v : Word) : (s.setReg r v).ep = s.ep := rfl
@[simp] theorem State.setReg_dp (s : State) (r : Reg) (v : Word) : (s.setReg r v).dp = s.dp := rfl
@[simp] theorem State.setReg_tp (s : State) (r : Reg) (v : Word) : (s.setReg r v).tp = s.tp := rfl
@[simp] theorem State.setReg_runState (s : State) (r : Reg) (v : Word) : (s.setReg r v).runState = s.runState := rfl
@[simp] theorem State.setReg_mem (s : State) (r : Reg) (v : Word) : (s.setReg r v).mem = s.mem := rfl
@[simp] theorem State.setReg_stored (s : State) (r : Reg) (v : Word) : (s.setReg r v).stored = s.stored := rfl
@[simp] theorem State.setReg_draws (s : State) (r : Reg) (v : Word) : (s.setReg r v).draws = s.draws := rfl
@[simp] theorem State.setReg_flags (s : State) (r : Reg) (v : Word) : (s.setReg r v).flags = s.flags := rfl
@[simp] theorem State.setReg_byteAt (s : State) (r : Reg) (v : Word) (a : Addr) : (s.setReg r v).byteAt a = s.byteAt a := rfl
@[simp] theorem State.setReg_wordAt (s : State) (r : Reg) (v : Word) (a : Addr) : (s.setReg r v).wordAt a = s.wordAt a := rfl

/-! ## `setPc` -/

@[simp] theorem State.setPc_mode (s : State) (v : Word) : (s.setPc v).mode = s.mode := rfl
@[simp] theorem State.setPc_regs (s : State) (v : Word) : (s.setPc v).regs = s.regs := rfl
@[simp] theorem State.setPc_pc (s : State) (v : Word) : (s.setPc v).pc = v := rfl
@[simp] theorem State.setPc_cp (s : State) (v : Word) : (s.setPc v).cp = s.cp := rfl
@[simp] theorem State.setPc_sr (s : State) (v : Word) : (s.setPc v).sr = s.sr := rfl
@[simp] theorem State.setPc_br (s : State) (v : Word) : (s.setPc v).br = s.br := rfl
@[simp] theorem State.setPc_ep (s : State) (v : Word) : (s.setPc v).ep = s.ep := rfl
@[simp] theorem State.setPc_dp (s : State) (v : Word) : (s.setPc v).dp = s.dp := rfl
@[simp] theorem State.setPc_tp (s : State) (v : Word) : (s.setPc v).tp = s.tp := rfl
@[simp] theorem State.setPc_runState (s : State) (v : Word) : (s.setPc v).runState = s.runState := rfl
@[simp] theorem State.setPc_mem (s : State) (v : Word) : (s.setPc v).mem = s.mem := rfl
@[simp] theorem State.setPc_stored (s : State) (v : Word) : (s.setPc v).stored = s.stored := rfl
@[simp] theorem State.setPc_draws (s : State) (v : Word) : (s.setPc v).draws = s.draws := rfl
@[simp] theorem State.setPc_reg (s : State) (v : Word) (q : Reg) : (s.setPc v).reg q = s.reg q := rfl
@[simp] theorem State.setPc_sp (s : State) (v : Word) : (s.setPc v).sp = s.sp := rfl
@[simp] theorem State.setPc_regOp (s : State) (v : Word) (sz : Size) (q : Reg) :
    (s.setPc v).regOp sz q = s.regOp sz q := rfl
@[simp] theorem State.setPc_flags (s : State) (v : Word) : (s.setPc v).flags = s.flags := rfl
@[simp] theorem State.setPc_byteAt (s : State) (v : Word) (a : Addr) : (s.setPc v).byteAt a = s.byteAt a := rfl
@[simp] theorem State.setPc_wordAt (s : State) (v : Word) (a : Addr) : (s.setPc v).wordAt a = s.wordAt a := rfl

/-! ## `setCp` -/

@[simp] theorem State.setCp_mode (s : State) (v : Byte) : (s.setCp v).mode = s.mode := rfl
@[simp] theorem State.setCp_regs (s : State) (v : Byte) : (s.setCp v).regs = s.regs := rfl
@[simp] theorem State.setCp_pc (s : State) (v : Byte) : (s.setCp v).pc = s.pc := rfl
@[simp] theorem State.setCp_cp (s : State) (v : Byte) : (s.setCp v).cp = v := rfl
@[simp] theorem State.setCp_sr (s : State) (v : Byte) : (s.setCp v).sr = s.sr := rfl
@[simp] theorem State.setCp_br (s : State) (v : Byte) : (s.setCp v).br = s.br := rfl
@[simp] theorem State.setCp_ep (s : State) (v : Byte) : (s.setCp v).ep = s.ep := rfl
@[simp] theorem State.setCp_dp (s : State) (v : Byte) : (s.setCp v).dp = s.dp := rfl
@[simp] theorem State.setCp_tp (s : State) (v : Byte) : (s.setCp v).tp = s.tp := rfl
@[simp] theorem State.setCp_runState (s : State) (v : Byte) : (s.setCp v).runState = s.runState := rfl
@[simp] theorem State.setCp_mem (s : State) (v : Byte) : (s.setCp v).mem = s.mem := rfl
@[simp] theorem State.setCp_stored (s : State) (v : Byte) : (s.setCp v).stored = s.stored := rfl
@[simp] theorem State.setCp_draws (s : State) (v : Byte) : (s.setCp v).draws = s.draws := rfl
@[simp] theorem State.setCp_reg (s : State) (v : Byte) (q : Reg) : (s.setCp v).reg q = s.reg q := rfl
@[simp] theorem State.setCp_sp (s : State) (v : Byte) : (s.setCp v).sp = s.sp := rfl
@[simp] theorem State.setCp_regOp (s : State) (v : Byte) (sz : Size) (q : Reg) :
    (s.setCp v).regOp sz q = s.regOp sz q := rfl
@[simp] theorem State.setCp_flags (s : State) (v : Byte) : (s.setCp v).flags = s.flags := rfl
@[simp] theorem State.setCp_byteAt (s : State) (v : Byte) (a : Addr) : (s.setCp v).byteAt a = s.byteAt a := rfl
@[simp] theorem State.setCp_wordAt (s : State) (v : Byte) (a : Addr) : (s.setCp v).wordAt a = s.wordAt a := rfl

/-! ## `setSr` -/

@[simp] theorem State.setSr_mode (s : State) (v : Status) : (s.setSr v).mode = s.mode := rfl
@[simp] theorem State.setSr_regs (s : State) (v : Status) : (s.setSr v).regs = s.regs := rfl
@[simp] theorem State.setSr_pc (s : State) (v : Status) : (s.setSr v).pc = s.pc := rfl
@[simp] theorem State.setSr_cp (s : State) (v : Status) : (s.setSr v).cp = s.cp := rfl
@[simp] theorem State.setSr_sr (s : State) (v : Status) : (s.setSr v).sr = v := rfl
@[simp] theorem State.setSr_br (s : State) (v : Status) : (s.setSr v).br = s.br := rfl
@[simp] theorem State.setSr_ep (s : State) (v : Status) : (s.setSr v).ep = s.ep := rfl
@[simp] theorem State.setSr_dp (s : State) (v : Status) : (s.setSr v).dp = s.dp := rfl
@[simp] theorem State.setSr_tp (s : State) (v : Status) : (s.setSr v).tp = s.tp := rfl
@[simp] theorem State.setSr_runState (s : State) (v : Status) : (s.setSr v).runState = s.runState := rfl
@[simp] theorem State.setSr_mem (s : State) (v : Status) : (s.setSr v).mem = s.mem := rfl
@[simp] theorem State.setSr_stored (s : State) (v : Status) : (s.setSr v).stored = s.stored := rfl
@[simp] theorem State.setSr_draws (s : State) (v : Status) : (s.setSr v).draws = s.draws := rfl
@[simp] theorem State.setSr_reg (s : State) (v : Status) (q : Reg) : (s.setSr v).reg q = s.reg q := rfl
@[simp] theorem State.setSr_sp (s : State) (v : Status) : (s.setSr v).sp = s.sp := rfl
@[simp] theorem State.setSr_regOp (s : State) (v : Status) (sz : Size) (q : Reg) :
    (s.setSr v).regOp sz q = s.regOp sz q := rfl
@[simp] theorem State.setSr_flags (s : State) (v : Status) : (s.setSr v).flags = v.flags := rfl
@[simp] theorem State.setSr_byteAt (s : State) (v : Status) (a : Addr) : (s.setSr v).byteAt a = s.byteAt a := rfl
@[simp] theorem State.setSr_wordAt (s : State) (v : Status) (a : Addr) : (s.setSr v).wordAt a = s.wordAt a := rfl

/-! ## `setFlags` -/

@[simp] theorem State.setFlags_mode (s : State) (f : Flags) : (s.setFlags f).mode = s.mode := rfl
@[simp] theorem State.setFlags_regs (s : State) (f : Flags) : (s.setFlags f).regs = s.regs := rfl
@[simp] theorem State.setFlags_pc (s : State) (f : Flags) : (s.setFlags f).pc = s.pc := rfl
@[simp] theorem State.setFlags_cp (s : State) (f : Flags) : (s.setFlags f).cp = s.cp := rfl
@[simp] theorem State.setFlags_sr (s : State) (f : Flags) : (s.setFlags f).sr = { s.sr with flags := f } := rfl
@[simp] theorem State.setFlags_br (s : State) (f : Flags) : (s.setFlags f).br = s.br := rfl
@[simp] theorem State.setFlags_ep (s : State) (f : Flags) : (s.setFlags f).ep = s.ep := rfl
@[simp] theorem State.setFlags_dp (s : State) (f : Flags) : (s.setFlags f).dp = s.dp := rfl
@[simp] theorem State.setFlags_tp (s : State) (f : Flags) : (s.setFlags f).tp = s.tp := rfl
@[simp] theorem State.setFlags_runState (s : State) (f : Flags) : (s.setFlags f).runState = s.runState := rfl
@[simp] theorem State.setFlags_mem (s : State) (f : Flags) : (s.setFlags f).mem = s.mem := rfl
@[simp] theorem State.setFlags_stored (s : State) (f : Flags) : (s.setFlags f).stored = s.stored := rfl
@[simp] theorem State.setFlags_draws (s : State) (f : Flags) : (s.setFlags f).draws = s.draws := rfl
@[simp] theorem State.setFlags_reg (s : State) (f : Flags) (q : Reg) : (s.setFlags f).reg q = s.reg q := rfl
@[simp] theorem State.setFlags_sp (s : State) (f : Flags) : (s.setFlags f).sp = s.sp := rfl
@[simp] theorem State.setFlags_regOp (s : State) (f : Flags) (sz : Size) (q : Reg) :
    (s.setFlags f).regOp sz q = s.regOp sz q := rfl
@[simp] theorem State.setFlags_flags (s : State) (f : Flags) : (s.setFlags f).flags = f := rfl
@[simp] theorem State.setFlags_byteAt (s : State) (f : Flags) (a : Addr) : (s.setFlags f).byteAt a = s.byteAt a := rfl
@[simp] theorem State.setFlags_wordAt (s : State) (f : Flags) (a : Addr) : (s.setFlags f).wordAt a = s.wordAt a := rfl

/-! ## `setBr` -/

@[simp] theorem State.setBr_mode (s : State) (v : Byte) : (s.setBr v).mode = s.mode := rfl
@[simp] theorem State.setBr_regs (s : State) (v : Byte) : (s.setBr v).regs = s.regs := rfl
@[simp] theorem State.setBr_pc (s : State) (v : Byte) : (s.setBr v).pc = s.pc := rfl
@[simp] theorem State.setBr_cp (s : State) (v : Byte) : (s.setBr v).cp = s.cp := rfl
@[simp] theorem State.setBr_sr (s : State) (v : Byte) : (s.setBr v).sr = s.sr := rfl
@[simp] theorem State.setBr_br (s : State) (v : Byte) : (s.setBr v).br = v := rfl
@[simp] theorem State.setBr_ep (s : State) (v : Byte) : (s.setBr v).ep = s.ep := rfl
@[simp] theorem State.setBr_dp (s : State) (v : Byte) : (s.setBr v).dp = s.dp := rfl
@[simp] theorem State.setBr_tp (s : State) (v : Byte) : (s.setBr v).tp = s.tp := rfl
@[simp] theorem State.setBr_runState (s : State) (v : Byte) : (s.setBr v).runState = s.runState := rfl
@[simp] theorem State.setBr_mem (s : State) (v : Byte) : (s.setBr v).mem = s.mem := rfl
@[simp] theorem State.setBr_stored (s : State) (v : Byte) : (s.setBr v).stored = s.stored := rfl
@[simp] theorem State.setBr_draws (s : State) (v : Byte) : (s.setBr v).draws = s.draws := rfl
@[simp] theorem State.setBr_reg (s : State) (v : Byte) (q : Reg) : (s.setBr v).reg q = s.reg q := rfl
@[simp] theorem State.setBr_sp (s : State) (v : Byte) : (s.setBr v).sp = s.sp := rfl
@[simp] theorem State.setBr_regOp (s : State) (v : Byte) (sz : Size) (q : Reg) :
    (s.setBr v).regOp sz q = s.regOp sz q := rfl
@[simp] theorem State.setBr_flags (s : State) (v : Byte) : (s.setBr v).flags = s.flags := rfl
@[simp] theorem State.setBr_byteAt (s : State) (v : Byte) (a : Addr) : (s.setBr v).byteAt a = s.byteAt a := rfl
@[simp] theorem State.setBr_wordAt (s : State) (v : Byte) (a : Addr) : (s.setBr v).wordAt a = s.wordAt a := rfl

/-! ## `setEp` -/

@[simp] theorem State.setEp_mode (s : State) (v : Byte) : (s.setEp v).mode = s.mode := rfl
@[simp] theorem State.setEp_regs (s : State) (v : Byte) : (s.setEp v).regs = s.regs := rfl
@[simp] theorem State.setEp_pc (s : State) (v : Byte) : (s.setEp v).pc = s.pc := rfl
@[simp] theorem State.setEp_cp (s : State) (v : Byte) : (s.setEp v).cp = s.cp := rfl
@[simp] theorem State.setEp_sr (s : State) (v : Byte) : (s.setEp v).sr = s.sr := rfl
@[simp] theorem State.setEp_br (s : State) (v : Byte) : (s.setEp v).br = s.br := rfl
@[simp] theorem State.setEp_ep (s : State) (v : Byte) : (s.setEp v).ep = v := rfl
@[simp] theorem State.setEp_dp (s : State) (v : Byte) : (s.setEp v).dp = s.dp := rfl
@[simp] theorem State.setEp_tp (s : State) (v : Byte) : (s.setEp v).tp = s.tp := rfl
@[simp] theorem State.setEp_runState (s : State) (v : Byte) : (s.setEp v).runState = s.runState := rfl
@[simp] theorem State.setEp_mem (s : State) (v : Byte) : (s.setEp v).mem = s.mem := rfl
@[simp] theorem State.setEp_stored (s : State) (v : Byte) : (s.setEp v).stored = s.stored := rfl
@[simp] theorem State.setEp_draws (s : State) (v : Byte) : (s.setEp v).draws = s.draws := rfl
@[simp] theorem State.setEp_reg (s : State) (v : Byte) (q : Reg) : (s.setEp v).reg q = s.reg q := rfl
@[simp] theorem State.setEp_sp (s : State) (v : Byte) : (s.setEp v).sp = s.sp := rfl
@[simp] theorem State.setEp_regOp (s : State) (v : Byte) (sz : Size) (q : Reg) :
    (s.setEp v).regOp sz q = s.regOp sz q := rfl
@[simp] theorem State.setEp_flags (s : State) (v : Byte) : (s.setEp v).flags = s.flags := rfl
@[simp] theorem State.setEp_byteAt (s : State) (v : Byte) (a : Addr) : (s.setEp v).byteAt a = s.byteAt a := rfl
@[simp] theorem State.setEp_wordAt (s : State) (v : Byte) (a : Addr) : (s.setEp v).wordAt a = s.wordAt a := rfl

/-! ## `setDp` -/

@[simp] theorem State.setDp_mode (s : State) (v : Byte) : (s.setDp v).mode = s.mode := rfl
@[simp] theorem State.setDp_regs (s : State) (v : Byte) : (s.setDp v).regs = s.regs := rfl
@[simp] theorem State.setDp_pc (s : State) (v : Byte) : (s.setDp v).pc = s.pc := rfl
@[simp] theorem State.setDp_cp (s : State) (v : Byte) : (s.setDp v).cp = s.cp := rfl
@[simp] theorem State.setDp_sr (s : State) (v : Byte) : (s.setDp v).sr = s.sr := rfl
@[simp] theorem State.setDp_br (s : State) (v : Byte) : (s.setDp v).br = s.br := rfl
@[simp] theorem State.setDp_ep (s : State) (v : Byte) : (s.setDp v).ep = s.ep := rfl
@[simp] theorem State.setDp_dp (s : State) (v : Byte) : (s.setDp v).dp = v := rfl
@[simp] theorem State.setDp_tp (s : State) (v : Byte) : (s.setDp v).tp = s.tp := rfl
@[simp] theorem State.setDp_runState (s : State) (v : Byte) : (s.setDp v).runState = s.runState := rfl
@[simp] theorem State.setDp_mem (s : State) (v : Byte) : (s.setDp v).mem = s.mem := rfl
@[simp] theorem State.setDp_stored (s : State) (v : Byte) : (s.setDp v).stored = s.stored := rfl
@[simp] theorem State.setDp_draws (s : State) (v : Byte) : (s.setDp v).draws = s.draws := rfl
@[simp] theorem State.setDp_reg (s : State) (v : Byte) (q : Reg) : (s.setDp v).reg q = s.reg q := rfl
@[simp] theorem State.setDp_sp (s : State) (v : Byte) : (s.setDp v).sp = s.sp := rfl
@[simp] theorem State.setDp_regOp (s : State) (v : Byte) (sz : Size) (q : Reg) :
    (s.setDp v).regOp sz q = s.regOp sz q := rfl
@[simp] theorem State.setDp_flags (s : State) (v : Byte) : (s.setDp v).flags = s.flags := rfl
@[simp] theorem State.setDp_byteAt (s : State) (v : Byte) (a : Addr) : (s.setDp v).byteAt a = s.byteAt a := rfl
@[simp] theorem State.setDp_wordAt (s : State) (v : Byte) (a : Addr) : (s.setDp v).wordAt a = s.wordAt a := rfl

/-! ## `setTp` -/

@[simp] theorem State.setTp_mode (s : State) (v : Byte) : (s.setTp v).mode = s.mode := rfl
@[simp] theorem State.setTp_regs (s : State) (v : Byte) : (s.setTp v).regs = s.regs := rfl
@[simp] theorem State.setTp_pc (s : State) (v : Byte) : (s.setTp v).pc = s.pc := rfl
@[simp] theorem State.setTp_cp (s : State) (v : Byte) : (s.setTp v).cp = s.cp := rfl
@[simp] theorem State.setTp_sr (s : State) (v : Byte) : (s.setTp v).sr = s.sr := rfl
@[simp] theorem State.setTp_br (s : State) (v : Byte) : (s.setTp v).br = s.br := rfl
@[simp] theorem State.setTp_ep (s : State) (v : Byte) : (s.setTp v).ep = s.ep := rfl
@[simp] theorem State.setTp_dp (s : State) (v : Byte) : (s.setTp v).dp = s.dp := rfl
@[simp] theorem State.setTp_tp (s : State) (v : Byte) : (s.setTp v).tp = v := rfl
@[simp] theorem State.setTp_runState (s : State) (v : Byte) : (s.setTp v).runState = s.runState := rfl
@[simp] theorem State.setTp_mem (s : State) (v : Byte) : (s.setTp v).mem = s.mem := rfl
@[simp] theorem State.setTp_stored (s : State) (v : Byte) : (s.setTp v).stored = s.stored := rfl
@[simp] theorem State.setTp_draws (s : State) (v : Byte) : (s.setTp v).draws = s.draws := rfl
@[simp] theorem State.setTp_reg (s : State) (v : Byte) (q : Reg) : (s.setTp v).reg q = s.reg q := rfl
@[simp] theorem State.setTp_sp (s : State) (v : Byte) : (s.setTp v).sp = s.sp := rfl
@[simp] theorem State.setTp_regOp (s : State) (v : Byte) (sz : Size) (q : Reg) :
    (s.setTp v).regOp sz q = s.regOp sz q := rfl
@[simp] theorem State.setTp_flags (s : State) (v : Byte) : (s.setTp v).flags = s.flags := rfl
@[simp] theorem State.setTp_byteAt (s : State) (v : Byte) (a : Addr) : (s.setTp v).byteAt a = s.byteAt a := rfl
@[simp] theorem State.setTp_wordAt (s : State) (v : Byte) (a : Addr) : (s.setTp v).wordAt a = s.wordAt a := rfl

/-! ## `setRunState` -/

@[simp] theorem State.setRunState_mode (s : State) (v : RunState) : (s.setRunState v).mode = s.mode := rfl
@[simp] theorem State.setRunState_regs (s : State) (v : RunState) : (s.setRunState v).regs = s.regs := rfl
@[simp] theorem State.setRunState_pc (s : State) (v : RunState) : (s.setRunState v).pc = s.pc := rfl
@[simp] theorem State.setRunState_cp (s : State) (v : RunState) : (s.setRunState v).cp = s.cp := rfl
@[simp] theorem State.setRunState_sr (s : State) (v : RunState) : (s.setRunState v).sr = s.sr := rfl
@[simp] theorem State.setRunState_br (s : State) (v : RunState) : (s.setRunState v).br = s.br := rfl
@[simp] theorem State.setRunState_ep (s : State) (v : RunState) : (s.setRunState v).ep = s.ep := rfl
@[simp] theorem State.setRunState_dp (s : State) (v : RunState) : (s.setRunState v).dp = s.dp := rfl
@[simp] theorem State.setRunState_tp (s : State) (v : RunState) : (s.setRunState v).tp = s.tp := rfl
@[simp] theorem State.setRunState_runState (s : State) (v : RunState) : (s.setRunState v).runState = v := rfl
@[simp] theorem State.setRunState_mem (s : State) (v : RunState) : (s.setRunState v).mem = s.mem := rfl
@[simp] theorem State.setRunState_stored (s : State) (v : RunState) : (s.setRunState v).stored = s.stored := rfl
@[simp] theorem State.setRunState_draws (s : State) (v : RunState) : (s.setRunState v).draws = s.draws := rfl
@[simp] theorem State.setRunState_reg (s : State) (v : RunState) (q : Reg) : (s.setRunState v).reg q = s.reg q := rfl
@[simp] theorem State.setRunState_sp (s : State) (v : RunState) : (s.setRunState v).sp = s.sp := rfl
@[simp] theorem State.setRunState_regOp (s : State) (v : RunState) (sz : Size) (q : Reg) :
    (s.setRunState v).regOp sz q = s.regOp sz q := rfl
@[simp] theorem State.setRunState_flags (s : State) (v : RunState) : (s.setRunState v).flags = s.flags := rfl
@[simp] theorem State.setRunState_byteAt (s : State) (v : RunState) (a : Addr) : (s.setRunState v).byteAt a = s.byteAt a := rfl
@[simp] theorem State.setRunState_wordAt (s : State) (v : RunState) (a : Addr) : (s.setRunState v).wordAt a = s.wordAt a := rfl

/-! ## `addDraws` -/

@[simp] theorem State.addDraws_mode (s : State) (k : Nat) : (s.addDraws k).mode = s.mode := rfl
@[simp] theorem State.addDraws_regs (s : State) (k : Nat) : (s.addDraws k).regs = s.regs := rfl
@[simp] theorem State.addDraws_pc (s : State) (k : Nat) : (s.addDraws k).pc = s.pc := rfl
@[simp] theorem State.addDraws_cp (s : State) (k : Nat) : (s.addDraws k).cp = s.cp := rfl
@[simp] theorem State.addDraws_sr (s : State) (k : Nat) : (s.addDraws k).sr = s.sr := rfl
@[simp] theorem State.addDraws_br (s : State) (k : Nat) : (s.addDraws k).br = s.br := rfl
@[simp] theorem State.addDraws_ep (s : State) (k : Nat) : (s.addDraws k).ep = s.ep := rfl
@[simp] theorem State.addDraws_dp (s : State) (k : Nat) : (s.addDraws k).dp = s.dp := rfl
@[simp] theorem State.addDraws_tp (s : State) (k : Nat) : (s.addDraws k).tp = s.tp := rfl
@[simp] theorem State.addDraws_runState (s : State) (k : Nat) : (s.addDraws k).runState = s.runState := rfl
@[simp] theorem State.addDraws_mem (s : State) (k : Nat) : (s.addDraws k).mem = s.mem := rfl
@[simp] theorem State.addDraws_stored (s : State) (k : Nat) : (s.addDraws k).stored = s.stored := rfl
@[simp] theorem State.addDraws_draws (s : State) (k : Nat) : (s.addDraws k).draws = s.draws + k := rfl
@[simp] theorem State.addDraws_reg (s : State) (k : Nat) (q : Reg) : (s.addDraws k).reg q = s.reg q := rfl
@[simp] theorem State.addDraws_sp (s : State) (k : Nat) : (s.addDraws k).sp = s.sp := rfl
@[simp] theorem State.addDraws_regOp (s : State) (k : Nat) (sz : Size) (q : Reg) :
    (s.addDraws k).regOp sz q = s.regOp sz q := rfl
@[simp] theorem State.addDraws_flags (s : State) (k : Nat) : (s.addDraws k).flags = s.flags := rfl
@[simp] theorem State.addDraws_byteAt (s : State) (k : Nat) (a : Addr) : (s.addDraws k).byteAt a = s.byteAt a := rfl
@[simp] theorem State.addDraws_wordAt (s : State) (k : Nat) (a : Addr) : (s.addDraws k).wordAt a = s.wordAt a := rfl

/-! ## `storeByte` -/

@[simp] theorem State.storeByte_mode (s : State) (a : Addr) (v : Byte) : (s.storeByte a v).mode = s.mode := rfl
@[simp] theorem State.storeByte_regs (s : State) (a : Addr) (v : Byte) : (s.storeByte a v).regs = s.regs := rfl
@[simp] theorem State.storeByte_pc (s : State) (a : Addr) (v : Byte) : (s.storeByte a v).pc = s.pc := rfl
@[simp] theorem State.storeByte_cp (s : State) (a : Addr) (v : Byte) : (s.storeByte a v).cp = s.cp := rfl
@[simp] theorem State.storeByte_sr (s : State) (a : Addr) (v : Byte) : (s.storeByte a v).sr = s.sr := rfl
@[simp] theorem State.storeByte_br (s : State) (a : Addr) (v : Byte) : (s.storeByte a v).br = s.br := rfl
@[simp] theorem State.storeByte_ep (s : State) (a : Addr) (v : Byte) : (s.storeByte a v).ep = s.ep := rfl
@[simp] theorem State.storeByte_dp (s : State) (a : Addr) (v : Byte) : (s.storeByte a v).dp = s.dp := rfl
@[simp] theorem State.storeByte_tp (s : State) (a : Addr) (v : Byte) : (s.storeByte a v).tp = s.tp := rfl
@[simp] theorem State.storeByte_runState (s : State) (a : Addr) (v : Byte) : (s.storeByte a v).runState = s.runState := rfl
@[simp] theorem State.storeByte_mem (s : State) (a : Addr) (v : Byte) : (s.storeByte a v).mem = s.mem.write a.toNat v := rfl
@[simp] theorem State.storeByte_stored (s : State) (a : Addr) (v : Byte) : (s.storeByte a v).stored = insertAddress s.stored a.toNat := rfl
@[simp] theorem State.storeByte_draws (s : State) (a : Addr) (v : Byte) : (s.storeByte a v).draws = s.draws := rfl
@[simp] theorem State.storeByte_reg (s : State) (a : Addr) (v : Byte) (q : Reg) : (s.storeByte a v).reg q = s.reg q := rfl
@[simp] theorem State.storeByte_sp (s : State) (a : Addr) (v : Byte) : (s.storeByte a v).sp = s.sp := rfl
@[simp] theorem State.storeByte_regOp (s : State) (a : Addr) (v : Byte) (sz : Size) (q : Reg) :
    (s.storeByte a v).regOp sz q = s.regOp sz q := rfl
@[simp] theorem State.storeByte_flags (s : State) (a : Addr) (v : Byte) : (s.storeByte a v).flags = s.flags := rfl

/-! ## `storeWord` -/

@[simp] theorem State.storeWord_mode (s : State) (a : Addr) (v : Word) : (s.storeWord a v).mode = s.mode := rfl
@[simp] theorem State.storeWord_regs (s : State) (a : Addr) (v : Word) : (s.storeWord a v).regs = s.regs := rfl
@[simp] theorem State.storeWord_pc (s : State) (a : Addr) (v : Word) : (s.storeWord a v).pc = s.pc := rfl
@[simp] theorem State.storeWord_cp (s : State) (a : Addr) (v : Word) : (s.storeWord a v).cp = s.cp := rfl
@[simp] theorem State.storeWord_sr (s : State) (a : Addr) (v : Word) : (s.storeWord a v).sr = s.sr := rfl
@[simp] theorem State.storeWord_br (s : State) (a : Addr) (v : Word) : (s.storeWord a v).br = s.br := rfl
@[simp] theorem State.storeWord_ep (s : State) (a : Addr) (v : Word) : (s.storeWord a v).ep = s.ep := rfl
@[simp] theorem State.storeWord_dp (s : State) (a : Addr) (v : Word) : (s.storeWord a v).dp = s.dp := rfl
@[simp] theorem State.storeWord_tp (s : State) (a : Addr) (v : Word) : (s.storeWord a v).tp = s.tp := rfl
@[simp] theorem State.storeWord_runState (s : State) (a : Addr) (v : Word) : (s.storeWord a v).runState = s.runState := rfl
@[simp] theorem State.storeWord_draws (s : State) (a : Addr) (v : Word) : (s.storeWord a v).draws = s.draws := rfl
@[simp] theorem State.storeWord_reg (s : State) (a : Addr) (v : Word) (q : Reg) : (s.storeWord a v).reg q = s.reg q := rfl
@[simp] theorem State.storeWord_sp (s : State) (a : Addr) (v : Word) : (s.storeWord a v).sp = s.sp := rfl
@[simp] theorem State.storeWord_regOp (s : State) (a : Addr) (v : Word) (sz : Size) (q : Reg) :
    (s.storeWord a v).regOp sz q = s.regOp sz q := rfl
@[simp] theorem State.storeWord_flags (s : State) (a : Addr) (v : Word) : (s.storeWord a v).flags = s.flags := rfl

/-! ## Reading a register after a write -/

@[simp] theorem State.reg_setReg (s : State) (r : Reg) (v : Word) (q : Reg) :
    (s.setReg r v).reg q = if q = r then v else s.reg q := by
  by_cases h : q = r
  · subst h; simp [State.reg, State.setReg]
  · have h' : r.val ≠ q.val := fun e => h (Fin.ext e.symm)
    simp [State.reg, State.setReg, h, Vector.getElem_set_ne, h']

theorem State.setSp_eq (s : State) (v : Word) : s.setSp v = s.setReg Config.spIndex v := rfl

theorem State.sp_eq (s : State) : s.sp = s.reg Config.spIndex := rfl

@[simp] theorem State.sp_setSp (s : State) (v : Word) : (s.setSp v).sp = v := by
  simp [State.sp, State.setSp]

@[simp] theorem State.reg_setSp (s : State) (v : Word) (q : Reg) :
    (s.setSp v).reg q = if q = Config.spIndex then v else s.reg q := by
  simp [State.setSp]

@[simp] theorem State.setSp_byteAt (s : State) (v : Word) (a : Addr) : (s.setSp v).byteAt a = s.byteAt a := rfl
@[simp] theorem State.setSp_mode (s : State) (v : Word) : (s.setSp v).mode = s.mode := rfl
@[simp] theorem State.setSp_pc (s : State) (v : Word) : (s.setSp v).pc = s.pc := rfl
@[simp] theorem State.setSp_cp (s : State) (v : Word) : (s.setSp v).cp = s.cp := rfl
@[simp] theorem State.setSp_sr (s : State) (v : Word) : (s.setSp v).sr = s.sr := rfl
@[simp] theorem State.setSp_br (s : State) (v : Word) : (s.setSp v).br = s.br := rfl
@[simp] theorem State.setSp_ep (s : State) (v : Word) : (s.setSp v).ep = s.ep := rfl
@[simp] theorem State.setSp_dp (s : State) (v : Word) : (s.setSp v).dp = s.dp := rfl
@[simp] theorem State.setSp_tp (s : State) (v : Word) : (s.setSp v).tp = s.tp := rfl
@[simp] theorem State.setSp_runState (s : State) (v : Word) : (s.setSp v).runState = s.runState := rfl
@[simp] theorem State.setSp_mem (s : State) (v : Word) : (s.setSp v).mem = s.mem := rfl
@[simp] theorem State.setSp_stored (s : State) (v : Word) : (s.setSp v).stored = s.stored := rfl
@[simp] theorem State.setSp_draws (s : State) (v : Word) : (s.setSp v).draws = s.draws := rfl
@[simp] theorem State.setSp_flags (s : State) (v : Word) : (s.setSp v).flags = s.flags := rfl
@[simp] theorem State.setSp_wordAt (s : State) (v : Word) (a : Addr) : (s.setSp v).wordAt a = s.wordAt a := rfl

/-! ## Byte and word writes of a register -/

/-- A byte write keeps bits 15 to 8 and changes bits 7 to 0 (10_state.md R21). -/
theorem State.setRegOp_byte (s : State) (r : Reg) (v : BitVec 8) :
    s.setRegOp .byte r v = s.setReg r (withLowByte (s.reg r) v) := rfl

/-- A word write replaces the register (R20). -/
theorem State.setRegOp_word (s : State) (r : Reg) (v : BitVec 16) : s.setRegOp .word r v = s.setReg r v := rfl

/-- Writing an operand to a register is one register write. -/
theorem State.setRegOp_eq (s : State) (sz : Size) (r : Reg) (v : BitVec sz.bits) :
    ∃ w, s.setRegOp sz r v = s.setReg r w := by
  cases sz
  · exact ⟨_, rfl⟩
  · exact ⟨_, rfl⟩

@[simp] theorem withLowByte_low (old : Word) (v : Byte) : (withLowByte old v).setWidth 8 = v := by
  apply BitVec.eq_of_getLsbD_eq
  intro i hi
  have := BitVec.getLsbD_append (x := old.extractLsb' 8 8) (y := v) (i := i)
  simp only [BitVec.getLsbD_setWidth, withLowByte, hi, decide_true, Bool.true_and, if_true] at this ⊢
  exact this

@[simp] theorem withLowByte_high (old : Word) (v : Byte) : (withLowByte old v).extractLsb' 8 8 = old.extractLsb' 8 8 := by
  apply BitVec.eq_of_getLsbD_eq
  intro i hi
  have := BitVec.getLsbD_append (x := old.extractLsb' 8 8) (y := v) (i := 8 + i)
  simp only [BitVec.getLsbD_extractLsb', withLowByte, hi, decide_true, Bool.true_and] at this ⊢
  refine this.trans ?_
  simp [hi]

/-- The operand read back is the operand written, and the other registers stay. -/
theorem State.regOp_setRegOp (s : State) (sz : Size) (r : Reg) (v : BitVec sz.bits) :
    (s.setRegOp sz r v).regOp sz r = v := by
  cases sz
  · simp [State.regOp, State.setRegOp]
  · simp [State.regOp, State.setRegOp]

/-- A register other than the one written stays. -/
theorem State.reg_setRegOp_ne (s : State) (sz : Size) (r q : Reg) (v : BitVec sz.bits) (h : q ≠ r) :
    (s.setRegOp sz r v).reg q = s.reg q := by
  obtain ⟨w, hw⟩ := s.setRegOp_eq sz r v
  simp [hw, h]

@[simp] theorem State.setRegOp_mode (s : State) (sz : Size) (r : Reg) (v : BitVec sz.bits) :
    (s.setRegOp sz r v).mode = s.mode := by cases sz <;> rfl
@[simp] theorem State.setRegOp_pc (s : State) (sz : Size) (r : Reg) (v : BitVec sz.bits) :
    (s.setRegOp sz r v).pc = s.pc := by cases sz <;> rfl
@[simp] theorem State.setRegOp_cp (s : State) (sz : Size) (r : Reg) (v : BitVec sz.bits) :
    (s.setRegOp sz r v).cp = s.cp := by cases sz <;> rfl
@[simp] theorem State.setRegOp_sr (s : State) (sz : Size) (r : Reg) (v : BitVec sz.bits) :
    (s.setRegOp sz r v).sr = s.sr := by cases sz <;> rfl
@[simp] theorem State.setRegOp_br (s : State) (sz : Size) (r : Reg) (v : BitVec sz.bits) :
    (s.setRegOp sz r v).br = s.br := by cases sz <;> rfl
@[simp] theorem State.setRegOp_ep (s : State) (sz : Size) (r : Reg) (v : BitVec sz.bits) :
    (s.setRegOp sz r v).ep = s.ep := by cases sz <;> rfl
@[simp] theorem State.setRegOp_dp (s : State) (sz : Size) (r : Reg) (v : BitVec sz.bits) :
    (s.setRegOp sz r v).dp = s.dp := by cases sz <;> rfl
@[simp] theorem State.setRegOp_tp (s : State) (sz : Size) (r : Reg) (v : BitVec sz.bits) :
    (s.setRegOp sz r v).tp = s.tp := by cases sz <;> rfl
@[simp] theorem State.setRegOp_runState (s : State) (sz : Size) (r : Reg) (v : BitVec sz.bits) :
    (s.setRegOp sz r v).runState = s.runState := by cases sz <;> rfl
@[simp] theorem State.setRegOp_mem (s : State) (sz : Size) (r : Reg) (v : BitVec sz.bits) :
    (s.setRegOp sz r v).mem = s.mem := by cases sz <;> rfl
@[simp] theorem State.setRegOp_stored (s : State) (sz : Size) (r : Reg) (v : BitVec sz.bits) :
    (s.setRegOp sz r v).stored = s.stored := by cases sz <;> rfl
@[simp] theorem State.setRegOp_draws (s : State) (sz : Size) (r : Reg) (v : BitVec sz.bits) :
    (s.setRegOp sz r v).draws = s.draws := by cases sz <;> rfl
@[simp] theorem State.setRegOp_flags (s : State) (sz : Size) (r : Reg) (v : BitVec sz.bits) :
    (s.setRegOp sz r v).flags = s.flags := by cases sz <;> rfl
@[simp] theorem State.setRegOp_byteAt (s : State) (sz : Size) (r : Reg) (v : BitVec sz.bits) (a : Addr) :
    (s.setRegOp sz r v).byteAt a = s.byteAt a := by cases sz <;> rfl

/-! ## SR as a word -/

/-- What SR holds survives being written out and read back (10_state.md R30). -/
@[simp] theorem Status.ofWord_toWord (x : Status) : Status.ofWord x.toWord = x := by
  obtain ⟨t, m, n, z, v, c⟩ := x
  revert t m n z v c
  decide

/-- Bits 14 to 11 and 7 to 4 of SR read as 0 (10_state.md R30). -/
theorem Status.toWord_reserved (x : Status) : x.toWord &&& 0x78F0 = 0 := by
  obtain ⟨t, m, n, z, v, c⟩ := x
  revert t m n z v c
  decide

end Sys2Proof.Machine
end

