-- ==== Sys2Proof/Laws/Memory.lean ====
section
/-! SUPPORT. Memory: what is read after a write, and that every write keeps the canonical form. -/

namespace Sys2Proof.Machine

/-! ## The list of cells -/

@[simp] theorem Memory.read_nil (a : Nat) : Memory.read [] a = none := rfl

theorem Memory.read_cons (c : Host.Cell) (m : Memory) (a : Nat) :
    Memory.read (c :: m) a = if a = c.1 then some c.2 else Memory.read m a := rfl

/-- A read after a write gives the value written, and every other address reads as before. -/
theorem Memory.read_write (m : Memory) (a : Nat) (v : Byte) (b : Nat) :
    (m.write a v).read b = if b = a then some v else m.read b := by
  induction m with
  | nil => rfl
  | cons c rest ih =>
    obtain ⟨k, w⟩ := c
    unfold Memory.write
    split
    · rfl
    · split
      · subst k
        simp only [Memory.read_cons]
        split <;> rfl
      · rename_i h1 h2
        simp only [Memory.read_cons, ih]
        by_cases hb : b = k
        · subst hb
          rw [if_pos rfl, if_neg (fun h => h2 h.symm), if_pos rfl]
        · rw [if_neg hb, if_neg hb]

/-- The addresses listed after a write. -/
theorem Memory.mem_keys_write (m : Memory) (a : Nat) (v : Byte) (x : Nat) :
    x ∈ (m.write a v).map Prod.fst ↔ x = a ∨ x ∈ m.map Prod.fst := by
  induction m with
  | nil => simp [Memory.write]
  | cons c rest ih =>
    obtain ⟨k, w⟩ := c
    unfold Memory.write
    split
    · simp
    · split
      · subst k; simp
      · simp only [List.map_cons, List.mem_cons, ih]
        tauto

/-- The canonical form as a proposition. -/
theorem Memory.wf_iff (m : Memory) : m.wf = true ↔ (m.map Prod.fst).Pairwise (· < ·) := by
  simp [Memory.wf]

/-- A write keeps the canonical form. -/
theorem Memory.wf_write (m : Memory) (a : Nat) (v : Byte) (h : m.wf = true) : (m.write a v).wf = true := by
  rw [Memory.wf_iff] at h ⊢
  induction m with
  | nil => simp [Memory.write]
  | cons c rest ih =>
    obtain ⟨k, w⟩ := c
    simp only [List.map_cons, List.pairwise_cons] at h
    unfold Memory.write
    split
    · rename_i hlt
      simp only [List.map_cons, List.pairwise_cons, List.mem_cons]
      refine ⟨?_, h⟩
      rintro x (rfl | hx)
      · exact hlt
      · exact Nat.lt_trans hlt (h.1 x hx)
    · split
      · subst k
        simpa using h
      · rename_i h1 h2
        simp only [List.map_cons, List.pairwise_cons]
        refine ⟨?_, ih h.2⟩
        intro x hx
        rcases (Memory.mem_keys_write rest a v x).1 hx with rfl | hx
        · omega
        · exact h.1 x hx

/-- An address has a value exactly when it is listed. -/
theorem Memory.read_isSome (m : Memory) (a : Nat) : (m.read a).isSome = true ↔ a ∈ m.map Prod.fst := by
  induction m with
  | nil => simp
  | cons c rest ih =>
    simp only [Memory.read_cons, List.map_cons, List.mem_cons]
    by_cases h : a = c.1
    · simp [h]
    · simp [h, ih]

/-- Memory at reset lists nothing and has the canonical form. -/
theorem reset_mem_wf : State.reset.mem.wf = true := by decide

/-! ## The addresses stored to -/

theorem mem_insertAddress (l : List Nat) (a x : Nat) : x ∈ insertAddress l a ↔ x = a ∨ x ∈ l := by
  induction l with
  | nil => simp [insertAddress]
  | cons b rest ih =>
    unfold insertAddress
    split
    · simp
    · split
      · subst b; simp
      · simp only [List.mem_cons, ih]; tauto

/-- Adding an address keeps the list rising. -/
theorem insertAddress_rising (l : List Nat) (a : Nat) (h : l.Pairwise (· < ·)) : (insertAddress l a).Pairwise (· < ·) := by
  induction l with
  | nil => simp [insertAddress]
  | cons b rest ih =>
    simp only [List.pairwise_cons] at h
    unfold insertAddress
    split
    · rename_i hlt
      simp only [List.pairwise_cons, List.mem_cons]
      refine ⟨?_, h⟩
      rintro x (rfl | hx)
      · exact hlt
      · exact Nat.lt_trans hlt (h.1 x hx)
    · split
      · simpa using h
      · simp only [List.pairwise_cons]
        refine ⟨?_, ih h.2⟩
        intro x hx
        rcases (mem_insertAddress rest a x).1 hx with rfl | hx
        · omega
        · exact h.1 x hx

/-! ## Bytes and words of the state -/

/-- A stored byte reads back; every other byte reads as before (20_memory.md R55). -/
theorem State.byteAt_storeByte (s : State) (a : Addr) (v : Byte) (b : Addr) :
    (s.storeByte a v).byteAt b = if b = a then some v else s.byteAt b := by
  simp only [State.byteAt, State.storeByte, Memory.read_write]
  by_cases h : b = a
  · simp [h]
  · have : b.toNat ≠ a.toNat := fun e => h (BitVec.eq_of_toNat_eq e)
    simp [h, this]

/-- The byte after an address is another one. -/
theorem addr_succ_ne (a : Addr) : a + 1 ≠ a := by
  bv_omega

/-- A stored word, byte by byte: the high byte at the lower address (R54). -/
theorem State.byteAt_storeWord (s : State) (a : Addr) (v : Word) (b : Addr) :
    (s.storeWord a v).byteAt b =
      if b = a then some (v.extractLsb' 8 8) else if b = a + 1 then some (v.extractLsb' 0 8) else s.byteAt b := by
  simp only [State.storeWord, State.byteAt_storeByte]
  by_cases h : b = a
  · subst h
    simp
  · simp [h]

/-- A word is its two bytes. -/
theorem word_of_bytes (v : Word) : v.extractLsb' 8 8 ++ v.extractLsb' 0 8 = v := by
  apply BitVec.eq_of_getLsbD_eq
  intro i hi
  have := BitVec.getLsbD_append (x := v.extractLsb' 8 8) (y := v.extractLsb' 0 8) (i := i)
  refine this.trans ?_
  by_cases h : i < 8
  · simp [h]
  · simp [h, show i - 8 < 8 by omega, show 8 + (i - 8) = i by omega]

/-- A stored word reads back (R54, R55). -/
theorem State.wordAt_storeWord (s : State) (a : Addr) (v : Word) : (s.storeWord a v).wordAt a = some v := by
  have h1 : (s.storeWord a v).byteAt a = some (v.extractLsb' 8 8) := by simp [State.byteAt_storeWord]
  have h2 : (s.storeWord a v).byteAt (a + 1) = some (v.extractLsb' 0 8) := by
    simp [State.byteAt_storeWord]
  simp only [State.wordAt, h1, h2, word_of_bytes]

/-- A word apart from a stored word reads as before. -/
theorem State.wordAt_storeWord_ne (s : State) (a : Addr) (v : Word) (b : Addr) (h1 : b ≠ a) (h2 : b ≠ a + 1)
    (h3 : b + 1 ≠ a) : (s.storeWord a v).wordAt b = s.wordAt b := by
  have h4 : b + 1 ≠ a + 1 := fun h => h1 (by simpa using h)
  simp only [State.wordAt, State.byteAt_storeWord, if_neg h1, if_neg h2, if_neg h3, if_neg h4]

/-- The bytes stored to after one more store. -/
theorem State.mem_stored_storeByte (s : State) (a : Addr) (v : Byte) (x : Nat) :
    x ∈ (s.storeByte a v).stored ↔ x = a.toNat ∨ x ∈ s.stored := mem_insertAddress _ _ _

/-- Storing an operand is storing a byte or a word. -/
theorem State.storeMem_byte (s : State) (a : Addr) (v : BitVec 8) : s.storeMem .byte a v = s.storeByte a v := rfl

theorem State.storeMem_word (s : State) (a : Addr) (v : BitVec 16) : s.storeMem .word a v = s.storeWord a v := rfl

/-! ## Consistency -/

/-- Consistency, one part a line. -/
theorem State.inv_iff (s : State) : s.Inv ↔
    s.mem.wf = true ∧ (∀ c ∈ s.mem, c.1 < s.mode.addressSpace) ∧ s.stored.Pairwise (· < ·) ∧
      ∀ a ∈ s.stored, (s.mem.read a).isSome = true := by
  simp [State.Inv, State.consistent, and_assoc]

/-- Consistency depends on memory, the addresses stored to and the mode alone. -/
theorem State.inv_congr {s t : State} (hm : t.mem = s.mem) (hs : t.stored = s.stored) (hd : t.mode = s.mode)
    (h : s.Inv) : t.Inv := by
  simpa [State.Inv, State.consistent, hm, hs, hd] using h

/-- A store inside the address space keeps consistency. -/
theorem State.inv_storeByte (s : State) (a : Addr) (v : Byte) (ha : a.toNat < s.mode.addressSpace) (h : s.Inv) :
    (s.storeByte a v).Inv := by
  rw [State.inv_iff] at h ⊢
  obtain ⟨h1, h2, h3, h4⟩ := h
  refine ⟨Memory.wf_write _ _ _ h1, ?_, insertAddress_rising _ _ h3, ?_⟩
  · intro c hc
    have hk : c.1 ∈ (s.mem.write a.toNat v).map Prod.fst := List.mem_map_of_mem hc
    rcases (Memory.mem_keys_write _ _ _ _).1 hk with e | hk
    · simpa [e] using ha
    · obtain ⟨d, hd, e⟩ := List.mem_map.1 hk
      simpa [← e] using h2 d hd
  · intro x hx
    rw [State.storeByte_mem, Memory.read_write]
    split
    · rfl
    · rename_i hne
      rcases (State.mem_stored_storeByte _ _ _ _).1 hx with e | hx
      · exact absurd e hne
      · exact h4 x hx

/-- The state after reset is consistent, and supplying a byte inside the address space keeps consistency. -/
theorem State.inv_supplyByte (s : State) (a : Addr) (v : Byte) (ha : a.toNat < s.mode.addressSpace) (h : s.Inv) :
    (s.supplyByte a v).Inv := by
  rw [State.inv_iff] at h ⊢
  obtain ⟨h1, h2, h3, h4⟩ := h
  refine ⟨Memory.wf_write _ _ _ h1, ?_, h3.filter _, ?_⟩
  · intro c hc
    have hk : c.1 ∈ (s.mem.write a.toNat v).map Prod.fst := List.mem_map_of_mem hc
    rcases (Memory.mem_keys_write _ _ _ _).1 hk with e | hk
    · simpa [State.supplyByte, e] using ha
    · obtain ⟨d, hd, e⟩ := List.mem_map.1 hk
      simpa [State.supplyByte, ← e] using h2 d hd
  · intro x hx
    have hx' : x ∈ s.stored ∧ x ≠ a.toNat := by simpa [State.supplyByte] using hx
    show ((s.mem.write a.toNat v).read x).isSome = true
    rw [Memory.read_write, if_neg hx'.2]
    exact h4 x hx'.1

/-! ## Addresses -/

/-- Every address the machine forms lies in its address space (20_memory.md R51, R52). -/
theorem phys_lt (s : State) (sp : Space) (a : Word) : (phys s sp a).toNat < s.mode.addressSpace := by
  unfold phys
  cases s.mode
  · have := a.isLt
    simp only [BitVec.toNat_setWidth, Mode.addressSpace]
    omega
  · exact (pageOf s sp ++ a).isLt

/-- In an even address bit 0 is clear. -/
theorem isEven_iff (a : Addr) : isEven a = true ↔ a.toNat % 2 = 0 := by
  simp only [isEven, Bool.not_eq_true', BitVec.getLsbD, Nat.testBit_zero]
  simp

/-- The second byte of a word at an even address lies in the address space too. -/
theorem addr_succ_lt (m : Mode) (a : Addr) (he : isEven a = true) (h : a.toNat < m.addressSpace) :
    (a + 1).toNat < m.addressSpace := by
  rw [isEven_iff] at he
  cases m <;> simp only [Mode.addressSpace] at * <;> bv_omega

/-- The parity of an address is that of its offset. -/
theorem isEven_phys (s : State) (sp : Space) (a : Word) : isEven (phys s sp a) = !a.getLsbD 0 := by
  unfold phys isEven
  cases s.mode
  · simp
  · have := BitVec.getLsbD_append (x := pageOf s sp) (y := a) (i := 0)
    simp only [Nat.zero_lt_succ, if_true] at this
    simp only [Bool.not_inj_iff]
    exact this

end Sys2Proof.Machine
end

