-- ==== Sys2Proof/Laws/Ops.lean ====
section
/-! SUPPORT. What each shared operation can do, said once: its result when it answers, and that it reaches its result by
elementary changes of the state. -/

namespace Sys2Proof.Machine

/-! ## Elementary changes -/

/-- One elementary change of a state. `k` says whether SR as a whole and BR, EP, DP, TP may be written: only the
control-register instructions and RTE do that. No elementary change enters the power-down state. -/
inductive Change (k : Bool) : State → State → Prop where
  | reg (s : State) (r : Reg) (v : Word) : Change k s (s.setReg r v)
  | pc (s : State) (v : Word) : Change k s (s.setPc v)
  | cp (s : State) (v : Byte) (h : s.mode = .max) : Change k s (s.setCp v)
  | flags (s : State) (f : Flags) : Change k s (s.setFlags f)
  | clearT (s : State) : Change k s (s.setSr { s.sr with t := false })
  | awake (s : State) : Change k s (s.setRunState .running)
  | draw (s : State) (n : Nat) : Change k s (s.addDraws n)
  | store (s : State) (a : Addr) (v : Byte) (h : a.toNat < s.mode.addressSpace) : Change k s (s.storeByte a v)
  | sr (s : State) (v : Status) (h : k = true) : Change k s (s.setSr v)
  | br (s : State) (v : Byte) (h : k = true) : Change k s (s.setBr v)
  | ep (s : State) (v : Byte) (h : k = true) : Change k s (s.setEp v)
  | dp (s : State) (v : Byte) (h : k = true) : Change k s (s.setDp v)
  | tp (s : State) (v : Byte) (h : k = true) : Change k s (s.setTp v)

/-- Any number of elementary changes. -/
inductive Reach (k : Bool) (s : State) : State → Prop where
  | refl : Reach k s s
  | step {t u : State} (h : Reach k s t) (c : Change k t u) : Reach k s u

theorem Change.reach {k : Bool} {s t : State} (c : Change k s t) : Reach k s t := .step .refl c

theorem Reach.trans {k : Bool} {s t u : State} (h1 : Reach k s t) (h2 : Reach k t u) : Reach k s u := by
  induction h2 with
  | refl => exact h1
  | step _ c ih => exact .step ih c

/-- A relation that is reflexive, composes, and holds over every elementary change holds over any number of them. -/
theorem Reach.induct {k : Bool} {P : State → State → Prop} (hr : ∀ s, P s s)
    (ht : ∀ s t u, P s t → P t u → P s u) (hc : ∀ s t, Change k s t → P s t) {s t : State} (h : Reach k s t) : P s t := by
  induction h with
  | refl => exact hr s
  | step _ c ih => exact ht _ _ _ ih (hc _ _ c)

/-- No elementary change alters the mode. -/
theorem Change.mode_eq {k : Bool} {s t : State} (c : Change k s t) : t.mode = s.mode := by
  cases c <;> rfl

theorem Reach.mode_eq {k : Bool} {s t : State} (h : Reach k s t) : t.mode = s.mode :=
  h.induct (P := fun s t => t.mode = s.mode) (fun _ => rfl) (fun _ _ _ a b => b.trans a) (fun _ _ c => c.mode_eq)

/-! ## Stores -/

theorem reach_storeByte (k : Bool) (s : State) (a : Addr) (v : Byte) (h : a.toNat < s.mode.addressSpace) :
    Reach k s (s.storeByte a v) := (Change.store s a v h).reach

theorem reach_storeWord (k : Bool) (s : State) (a : Addr) (v : Word) (he : isEven a = true)
    (h : a.toNat < s.mode.addressSpace) : Reach k s (s.storeWord a v) :=
  .step (reach_storeByte k s a _ h) (.store _ _ _ (addr_succ_lt _ _ he h))

theorem reach_storeMem (k : Bool) (sz : Size) (s : State) (a : Addr) (v : BitVec sz.bits) (he : aligned sz a = true)
    (h : a.toNat < s.mode.addressSpace) : Reach k s (s.storeMem sz a v) := by
  cases sz
  · exact reach_storeByte k s a v h
  · exact reach_storeWord k s a v he h

theorem reach_setSp (k : Bool) (s : State) (v : Word) : Reach k s (s.setSp v) := (Change.reg s _ v).reach

/-! ## The stack -/

/-- A push that answers: SP was even, and the result is the pushed state. -/
theorem push16_ok {s t : State} {v : Word} (h : s.push16 v = .ok t) :
    isEven (phys s .stack (s.sp - 2)) = true ∧ t = s.pushRaw v := by
  unfold State.push16 at h
  split at h
  · exact ⟨‹_›, by simpa using h.symm⟩
  · cases h

/-- Two less has the same parity. -/
theorem sub_two_parity (a : Word) : (a - 2).getLsbD 0 = a.getLsbD 0 := by
  have h : (a - 2).toNat % 2 = a.toNat % 2 := by bv_omega
  simp only [BitVec.getLsbD, Nat.testBit_zero, h]

/-- A push from an even SP answers. -/
theorem push16_even (s : State) (v : Word) (h : s.sp.getLsbD 0 = false) : s.push16 v = .ok (s.pushRaw v) := by
  rw [State.push16, isEven_phys, sub_two_parity, h]
  rfl

/-- A push from an odd SP is an AddressError. -/
theorem push16_odd (s : State) (v : Word) (h : s.sp.getLsbD 0 = true) : s.push16 v = .error (.addressError none) := by
  rw [State.push16, isEven_phys, sub_two_parity, h]
  rfl

theorem reach_push16 {k : Bool} {s t : State} {v : Word} (h : s.push16 v = .ok t) : Reach k s t := by
  obtain ⟨he, rfl⟩ := push16_ok h
  exact (reach_setSp k s _).trans (reach_storeWord k _ _ _ he (phys_lt s .stack _))

/-- A word read that answers: the address was even and the word was there. -/
theorem readWord_ok {s : State} {touched : Option Reg} {a : Addr} {v : Word} (h : s.readWord touched a = .ok v) :
    isEven a = true ∧ s.wordAt a = some v := by
  unfold State.readWord at h
  split at h
  · refine ⟨‹_›, ?_⟩
    split at h
    · rename_i w hw
      cases h
      exact hw
    · cases h
  · cases h

/-- A word read at an even address that holds a word answers it. -/
theorem readWord_even {s : State} {a : Addr} {v : Word} (touched : Option Reg) (he : isEven a = true)
    (hv : s.wordAt a = some v) : s.readWord touched a = .ok v := by
  simp [State.readWord, he, hv]

/-- A word read at an odd address is an AddressError. -/
theorem readWord_odd (s : State) (touched : Option Reg) (a : Addr) (h : isEven a = false) :
    s.readWord touched a = .error (.addressError touched) := by
  simp [State.readWord, h]

/-- A pop that answers: the word at SP, and SP two higher. -/
theorem pop16_ok {s t : State} {touched : Option Reg} {v : Word} (h : s.pop16 touched = .ok (v, t)) :
    isEven (phys s .stack s.sp) = true ∧ s.wordAt (phys s .stack s.sp) = some v ∧ t = s.setSp (s.sp + 2) := by
  unfold State.pop16 at h
  cases hr : s.readWord touched (phys s .stack s.sp) with
  | error e => rw [hr] at h; cases h
  | ok w =>
    rw [hr] at h
    cases h
    exact ⟨(readWord_ok hr).1, (readWord_ok hr).2, rfl⟩

/-- A pop from an even SP with a word there answers. -/
theorem pop16_even {s : State} {v : Word} (touched : Option Reg) (h : s.sp.getLsbD 0 = false)
    (hv : s.wordAt (phys s .stack s.sp) = some v) : s.pop16 touched = .ok (v, s.setSp (s.sp + 2)) := by
  unfold State.pop16
  rw [readWord_even touched (by rw [isEven_phys, h]; rfl) hv]
  rfl

/-- A pop from an odd SP is an AddressError. -/
theorem pop16_odd (s : State) (touched : Option Reg) (h : s.sp.getLsbD 0 = true) :
    s.pop16 touched = .error (.addressError touched) := by
  unfold State.pop16
  rw [readWord_odd s touched _ (by rw [isEven_phys, h]; rfl)]
  rfl

theorem reach_pop16 {k : Bool} {s t : State} {touched : Option Reg} {v : Word} (h : s.pop16 touched = .ok (v, t)) :
    Reach k s t := by
  obtain ⟨_, _, rfl⟩ := pop16_ok h
  exact reach_setSp k s _

/-! ## Chains of operations -/

/-- A chain that answers: its first part answers, and the rest answers from there. -/
theorem bind_ok {ε α β : Type} {x : Except ε α} {f : α → Except ε β} {b : β} (h : (x >>= f) = .ok b) :
    ∃ a, x = .ok a ∧ f a = .ok b := by
  cases x with
  | error e => cases h
  | ok a => exact ⟨a, rfl, h⟩

theorem pure_ok {ε α : Type} {a b : α} (h : (pure a : Except ε α) = .ok b) : a = b := by
  cases h
  rfl

/-- In the entry sequence an operation answers exactly when it answers outside it. -/
theorem inEntry_ok {α : Type} {x : Except Stop α} {a : α} (h : inEntry x = .ok a) : x = .ok a := by
  cases x with
  | ok b => simpa [inEntry] using h
  | error e => cases e <;> cases h

theorem raised_ok {x : Except Halt State} {t : State} (h : raised x = .ok t) : x = .ok t := by
  cases x with
  | ok b => simpa [raised] using h
  | error e => cases h

theorem ofEntry_next {x : Except Halt State} {t : State} (h : ofEntry x = .next t) : x = .ok t := by
  cases x with
  | ok b => simpa [ofEntry] using h
  | error e => cases e <;> cases h

/-- An instruction that goes on: it completed, or it took an AddressError from the state it began in. -/
theorem complete_next {s t : State} {x : Except Stop State} (h : complete s x = .next t) :
    x = .ok t ∨ ∃ touched, x = .error (.addressError touched) ∧ raiseAddressError touched s = .ok t := by
  cases x with
  | ok b => exact .inl (by simpa [complete] using h)
  | error e =>
    cases e with
    | addressError touched => exact .inr ⟨touched, rfl, ofEntry_next h⟩
    | halt f => exact absurd (ofEntry_next h) (by simp)

/-! ## Exceptions -/

theorem reach_pushCp {k : Bool} {s t : State} (h : s.pushCp = .ok t) : Reach k s t :=
  (Change.draw s 1).reach.trans (reach_push16 h)

theorem reach_pushPage {k : Bool} {s t : State} (h : s.pushPage = .ok t) : Reach k s t := by
  unfold State.pushPage at h
  split at h
  · cases h
    exact .refl
  · exact reach_pushCp h

/-- Popping the page that answers: nothing in minimum mode, the low byte of a popped word in maximum mode. -/
theorem popPage_ok {s t : State} (h : s.popPage = .ok t) :
    (s.mode = .min ∧ t = s) ∨
      (s.mode = .max ∧ ∃ w s1, s.pop16 = .ok (w, s1) ∧ t = s1.setCp (w.extractLsb' 0 8)) := by
  unfold State.popPage at h
  split at h
  · cases h
    exact .inl ⟨‹_›, rfl⟩
  · obtain ⟨⟨w, s1⟩, h1, h⟩ := bind_ok h
    exact .inr ⟨‹_›, w, s1, h1, (pure_ok h).symm⟩

theorem reach_popPage {k : Bool} {s t : State} (h : s.popPage = .ok t) : Reach k s t := by
  rcases popPage_ok h with ⟨_, rfl⟩ | ⟨hm, w, s1, h1, rfl⟩
  · exact .refl
  · exact .step (reach_pop16 h1) (.cp _ _ (by rw [(reach_pop16 (k := k) h1).mode_eq, hm]))

theorem reach_stackFrame {k : Bool} {ret : Word} {s t : State} (h : stackFrame ret s = .ok t) : Reach k s t := by
  obtain ⟨s1, h1, h⟩ := bind_ok h
  obtain ⟨s2, h2, h⟩ := bind_ok h
  exact ((reach_push16 h1).trans (reach_pushPage h2)).trans (reach_push16 h)

/-- Reading the vector: PC becomes the entry's, and in maximum mode CP; nothing else changes. -/
theorem loadVector_ok {n : Nat} {s t : State} (h : loadVector n s = .ok t) :
    (s.mode = .min ∧ ∃ pc, s.wordAt (phys s .vector (BitVec.ofNat 16 (2 * n))) = some pc ∧ t = s.setPc pc) ∨
    (s.mode = .max ∧ ∃ hi pc, s.wordAt (phys s .vector (BitVec.ofNat 16 (4 * n))) = some hi ∧
      s.wordAt (phys s .vector (BitVec.ofNat 16 (4 * n + 2))) = some pc ∧
      t = (s.setCp (hi.extractLsb' 0 8)).setPc pc) := by
  unfold loadVector at h
  cases hm : s.mode with
  | min =>
    simp only [hm] at h
    obtain ⟨pc, h1, h⟩ := bind_ok h
    exact .inl ⟨rfl, pc, (readWord_ok h1).2, (pure_ok h).symm⟩
  | max =>
    simp only [hm] at h
    obtain ⟨hi, h1, h⟩ := bind_ok h
    obtain ⟨pc, h2, h⟩ := bind_ok h
    exact .inr ⟨rfl, hi, pc, (readWord_ok h1).2, (readWord_ok h2).2, (pure_ok h).symm⟩

theorem reach_loadVector {k : Bool} {n : Nat} {s t : State} (h : loadVector n s = .ok t) : Reach k s t := by
  rcases loadVector_ok h with ⟨_, pc, _, rfl⟩ | ⟨hm, hi, pc, _, _, rfl⟩
  · exact (Change.pc s pc).reach
  · exact .step (Change.cp s _ hm).reach (.pc _ _)

/-- Taking an exception, in order: the frame, T cleared, the vector, normal running (60_exceptions.md R296). -/
theorem takeException_ok {n : Nat} {ret : Word} {s t : State} (h : takeException n ret s = .ok t) :
    ∃ s1 s2, stackFrame ret s = .ok s1 ∧ loadVector n (s1.setSr { s1.sr with t := false }) = .ok s2 ∧
      t = s2.setRunState .running := by
  obtain ⟨s1, h1, h⟩ := bind_ok h
  obtain ⟨s2, h2, h⟩ := bind_ok h
  exact ⟨s1, s2, inEntry_ok h1, inEntry_ok h2, (pure_ok h).symm⟩

theorem reach_takeException {k : Bool} {n : Nat} {ret : Word} {s t : State} (h : takeException n ret s = .ok t) :
    Reach k s t := by
  obtain ⟨s1, s2, h1, h2, rfl⟩ := takeException_ok h
  exact .step (((reach_stackFrame h1).trans (Change.clearT s1).reach).trans (reach_loadVector h2)) (.awake _)

theorem reach_raiseAddressError {k : Bool} {touched : Option Reg} {s t : State}
    (h : raiseAddressError touched s = .ok t) : Reach k s t := by
  unfold raiseAddressError at h
  cases touched with
  | none => exact (Change.draw s 1).reach.trans (reach_takeException h)
  | some r =>
    exact (((Change.reg s r _).reach.trans (Change.draw _ 1).reach).trans (Change.draw _ 1).reach).trans
      (reach_takeException h)

theorem reach_raiseInvalidInstruction {k : Bool} {s t : State} (h : raiseInvalidInstruction s = .ok t) : Reach k s t :=
  (Change.draw s 1).reach.trans (reach_takeException h)

/-- Returning from an exception pops SR, in maximum mode CP, and PC (46_system.md R267). -/
theorem returnFromException_ok {s t : State} (h : returnFromException s = .ok t) :
    ∃ w s1 s2 pc s3, s.pop16 = .ok (w, s1) ∧ (s1.setSr (Status.ofWord w)).popPage = .ok s2 ∧
      s2.pop16 = .ok (pc, s3) ∧ t = s3.setPc pc := by
  obtain ⟨⟨w, s1⟩, h1, h⟩ := bind_ok h
  obtain ⟨s2, h2, h⟩ := bind_ok h
  obtain ⟨⟨pc, s3⟩, h3, h⟩ := bind_ok h
  exact ⟨w, s1, s2, pc, s3, h1, h2, h3, (pure_ok h).symm⟩

theorem reach_returnFromException {s t : State} (h : returnFromException s = .ok t) : Reach true s t := by
  obtain ⟨w, s1, s2, pc, s3, h1, h2, h3, rfl⟩ := returnFromException_ok h
  exact .step (((reach_pop16 h1).trans (.step .refl (.sr _ _ rfl))).trans ((reach_popPage h2).trans (reach_pop16 h3)))
    (.pc _ _)

/-- An instruction that goes on reaches its result by elementary changes, whether it completed or took an
AddressError. -/
theorem reach_complete {k : Bool} {s t : State} {x : Except Stop State} (h : complete s x = .next t)
    (hx : ∀ u, x = .ok u → Reach k s u) : Reach k s t := by
  rcases complete_next h with h | ⟨touched, _, h⟩
  · exact hx t h
  · exact reach_raiseAddressError h

/-! ## Operands -/

/-- Where a located operand lies: a register, or an address of the address space. -/
def Loc.inSpace (m : Mode) : Loc → Prop
  | .reg _ => True
  | .mem a _ => a.toNat < m.addressSpace

theorem reach_memEffect (k : Bool) (sz : Size) (m : MemEa) (s : State) : Reach k s (memEffect sz m s) := by
  cases m <;> first | exact .refl | exact (Change.reg s _ _).reach

theorem memEffect_mode (sz : Size) (m : MemEa) (s : State) : (memEffect sz m s).mode = s.mode :=
  (reach_memEffect true sz m s).mode_eq

theorem memAddr_lt (sz : Size) (m : MemEa) (s : State) : (memAddr sz m s).toNat < s.mode.addressSpace := by
  cases m <;> exact phys_lt _ _ _

/-- Locating a memory operand that answers: it was not refused, the locator is its address, and the state has its side
effect (20_memory.md R70). -/
theorem locateMem_ok {sz : Size} {other : Option Reg} {m : MemEa} {s t : State} {l : Loc}
    (h : locateMem sz other m s = .ok (l, t)) :
    eaRefusal sz other m = none ∧ l = .mem (memAddr sz m s) (autoBase m) ∧ t = memEffect sz m s := by
  unfold locateMem at h
  split at h
  · cases h
  · cases h
    exact ⟨‹_›, rfl, rfl⟩

theorem locateMem_eq {sz : Size} {other : Option Reg} {m : MemEa} (s : State) (h : eaRefusal sz other m = none) :
    locateMem sz other m s = .ok (.mem (memAddr sz m s) (autoBase m), memEffect sz m s) := by
  simp [locateMem, h]

/-- Locating a destination that answers. -/
theorem locateDst_ok {sz : Size} {other : Option Reg} {dst : DstEa} {s t : State} {l : Loc}
    (h : locateDst sz other dst s = .ok (l, t)) : (∀ k, Reach k s t) ∧ l.inSpace s.mode := by
  cases dst with
  | reg r => cases h; exact ⟨fun _ => .refl, trivial⟩
  | mem m =>
    obtain ⟨_, rfl, rfl⟩ := locateMem_ok h
    exact ⟨fun k => reach_memEffect k sz m s, memAddr_lt sz m s⟩

/-- Writing a located operand that answers. -/
theorem reach_writeOp {k : Bool} {sz : Size} {s t : State} {l : Loc} {v : BitVec sz.bits}
    (h : s.writeOp sz l v = .ok t) (hl : l.inSpace s.mode) : Reach k s t := by
  cases l with
  | reg r =>
    cases h
    obtain ⟨w, hw⟩ := s.setRegOp_eq sz r v
    rw [hw]
    exact (Change.reg s r w).reach
  | mem a auto =>
    by_cases ha : aligned sz a = true
    · simp only [State.writeOp, ha, if_true] at h
      cases h
      exact reach_storeMem k sz s a v ha hl
    · simp [State.writeOp, ha] at h

theorem reach_setRegOp (k : Bool) (sz : Size) (s : State) (r : Reg) (v : BitVec sz.bits) :
    Reach k s (s.setRegOp sz r v) := by
  obtain ⟨w, hw⟩ := s.setRegOp_eq sz r v
  rw [hw]
  exact (Change.reg s r w).reach

/-- Reading a source operand that answers: a register or an immediate changes nothing; a memory operand was not refused,
could be read at its address, and leaves its side effect. -/
theorem fetchSource_ok {sz : Size} {other : Option Reg} {src : SrcEa} {s t : State} {v : BitVec sz.bits}
    (h : fetchSource sz other src s = .ok (v, t)) :
    (∃ r, src = .reg r ∧ v = s.regOp sz r ∧ t = s) ∨ (∃ i, src = .imm i ∧ v = immValue sz i ∧ t = s) ∨
    ∃ m, src = .mem m ∧ eaRefusal sz other m = none ∧ t = memEffect sz m s ∧
      t.readMem sz (autoBase m) (memAddr sz m s) = .ok v := by
  cases src with
  | reg r => cases h; exact .inl ⟨r, rfl, rfl, rfl⟩
  | imm i => cases h; exact .inr (.inl ⟨i, rfl, rfl, rfl⟩)
  | mem m =>
    obtain ⟨⟨l, s1⟩, h1, h⟩ := bind_ok h
    obtain ⟨w, h2, h⟩ := bind_ok h
    cases pure_ok h
    obtain ⟨hr, rfl, rfl⟩ := locateMem_ok h1
    exact .inr (.inr ⟨m, rfl, hr, rfl, h2⟩)

theorem reach_fetchSource {k : Bool} {sz : Size} {other : Option Reg} {src : SrcEa} {s t : State} {v : BitVec sz.bits}
    (h : fetchSource sz other src s = .ok (v, t)) : Reach k s t := by
  rcases fetchSource_ok h with ⟨_, _, _, rfl⟩ | ⟨_, _, _, rfl⟩ | ⟨m, _, _, rfl, _⟩
  · exact .refl
  · exact .refl
  · exact reach_memEffect k sz m s

/-- Reading a destination operand that answers. -/
theorem fetchDest_ok {sz : Size} {other : Option Reg} {dst : DstEa} {s t : State} {v : BitVec sz.bits} {l : Loc}
    (h : fetchDest sz other dst s = .ok (v, l, t)) :
    locateDst sz other dst s = .ok (l, t) ∧ t.readOp sz l = .ok v := by
  obtain ⟨⟨l', s1⟩, h1, h⟩ := bind_ok h
  obtain ⟨w, h2, h⟩ := bind_ok h
  cases h
  exact ⟨h1, h2⟩

/-! ## The skeletons -/

theorem withSource_ok {sz : Size} {src : SrcEa} {other : Option Reg} {s s1 : State} {v : BitVec sz.bits}
    (h : fetchSource sz other src s = .ok (v, s1)) (k : BitVec sz.bits → State → Except Stop State) :
    withSource sz src other s k = complete s (k v s1) := by
  simp only [withSource, h]
  rfl

theorem reach_withSource {c : Bool} {sz : Size} {src : SrcEa} {other : Option Reg} {s t : State}
    {k : BitVec sz.bits → State → Except Stop State} (h : withSource sz src other s k = .next t)
    (hk : ∀ v s1 u, k v s1 = .ok u → Reach c s1 u) : Reach c s t := by
  refine reach_complete h fun u hu => ?_
  obtain ⟨⟨v, s1⟩, h1, hu⟩ := bind_ok hu
  exact (reach_fetchSource h1).trans (hk _ _ _ hu)

theorem modifyOp_ok {sz : Size} {dst : DstEa} {other : Option Reg} {s s1 s2 : State} {v : BitVec sz.bits} {l : Loc}
    {f : State → BitVec sz.bits → BitVec sz.bits} {g : State → BitVec sz.bits → Flags}
    (h : fetchDest sz other dst s = .ok (v, l, s1)) (hw : s1.writeOp sz l (f s1 v) = .ok s2) :
    modifyOp sz dst other s f g = .next (s2.setFlags (g s1 v)) := by
  simp only [modifyOp, h, complete, bind, Except.bind, hw, pure, Except.pure]

theorem reach_modifyOp {c : Bool} {sz : Size} {dst : DstEa} {other : Option Reg} {s t : State}
    {f : State → BitVec sz.bits → BitVec sz.bits} {g : State → BitVec sz.bits → Flags}
    (h : modifyOp sz dst other s f g = .next t) : Reach c s t := by
  refine reach_complete h fun u hu => ?_
  obtain ⟨⟨v, l, s1⟩, h1, hu⟩ := bind_ok hu
  obtain ⟨s2, h2, hu⟩ := bind_ok hu
  obtain ⟨hl, _⟩ := fetchDest_ok h1
  obtain ⟨hr, hin⟩ := locateDst_ok hl
  cases hu
  exact .step ((hr c).trans (reach_writeOp h2 (by rw [(hr c).mode_eq]; exact hin))) (.flags _ _)

theorem testOp_ok {sz : Size} {dst : DstEa} {other : Option Reg} {s s1 : State} {v : BitVec sz.bits} {l : Loc}
    {g : State → BitVec sz.bits → Flags} (h : fetchDest sz other dst s = .ok (v, l, s1)) :
    testOp sz dst other s g = .next (s1.setFlags (g s1 v)) := by
  simp only [testOp, h, complete, bind, Except.bind, pure, Except.pure]

theorem reach_testOp {c : Bool} {sz : Size} {dst : DstEa} {other : Option Reg} {s t : State}
    {g : State → BitVec sz.bits → Flags} (h : testOp sz dst other s g = .next t) : Reach c s t := by
  refine reach_complete h fun u hu => ?_
  obtain ⟨⟨v, l, s1⟩, h1, hu⟩ := bind_ok hu
  obtain ⟨hl, _⟩ := fetchDest_ok h1
  cases hu
  exact .step ((locateDst_ok hl).1 c) (.flags _ _)

theorem putDest_ok {sz : Size} {dst : DstEa} {other : Option Reg} {s s1 s2 : State} {l : Loc}
    {v : State → BitVec sz.bits} {g : State → Flags}
    (h : locateDst sz other dst s = .ok (l, s1)) (hw : s1.writeOp sz l (v s1) = .ok s2) :
    putDest sz dst other s v g = .next (s2.setFlags (g s1)) := by
  simp only [putDest, h, complete, bind, Except.bind, hw, pure, Except.pure]

theorem reach_putDest {c : Bool} {sz : Size} {dst : DstEa} {other : Option Reg} {s t : State}
    {v : State → BitVec sz.bits} {g : State → Flags} (h : putDest sz dst other s v g = .next t) : Reach c s t := by
  refine reach_complete h fun u hu => ?_
  obtain ⟨⟨l, s1⟩, h1, hu⟩ := bind_ok hu
  obtain ⟨s2, h2, hu⟩ := bind_ok hu
  obtain ⟨hr, hin⟩ := locateDst_ok h1
  cases hu
  exact .step ((hr c).trans (reach_writeOp h2 (by rw [(hr c).mode_eq]; exact hin))) (.flags _ _)

end Sys2Proof.Machine
end

