-- ==== Sys2Proof/Laws/Exec.lean ====
section
/-! SUPPORT. What an instruction can do, said once: whatever `exec` answers is reached by elementary changes of the
state, and only the instructions that may write control registers use those that do. -/

namespace Sys2Proof.Machine

/-! ## The operations of the families -/

theorem reach_loadReg {k : Bool} {sz : Size} {d : Reg} {v : BitVec sz.bits} {s t : State}
    (h : loadReg sz d v s = .ok t) : Reach k s t := by
  cases h
  exact .step (reach_setRegOp k sz s d v) (.flags _ _)

theorem reach_loadFrom {k : Bool} {sz : Size} {d : Reg} {a : Addr} {s t : State} (h : loadFrom sz d a s = .next t) :
    Reach k s t := by
  refine reach_complete h fun u hu => ?_
  obtain ⟨v, _, hu⟩ := bind_ok hu
  exact reach_loadReg hu

theorem reach_storeTo {k : Bool} {sz : Size} {r : Reg} {a : Addr} {s t : State} (ha : a.toNat < s.mode.addressSpace)
    (h : storeTo sz r a s = .next t) : Reach k s t := by
  refine reach_complete h fun u hu => ?_
  obtain ⟨s1, h1, hu⟩ := bind_ok hu
  cases hu
  exact .step (reach_writeOp h1 ha) (.flags _ _)

theorem reach_popAll {k : Bool} {rs : List Reg} {s t : State} (h : popAll rs s = .ok t) : Reach k s t := by
  induction rs generalizing s with
  | nil => cases h; exact .refl
  | cons r rest ih =>
    obtain ⟨⟨v, s1⟩, h1, h⟩ := bind_ok h
    exact ((reach_pop16 h1).trans (Change.reg _ _ _).reach).trans (ih h)

theorem reach_pushAll {k : Bool} {rs : List Reg} {s t : State} (h : pushAll rs s = .ok t) : Reach k s t := by
  induction rs generalizing s with
  | nil => cases h; exact .refl
  | cons r rest ih =>
    obtain ⟨s1, h1, h⟩ := bind_ok h
    exact (reach_push16 h1).trans (ih h)

theorem reach_aluRd {k : Bool} {sz : Size} {src : SrcEa} {d : Reg} {s t : State}
    {f : State → BitVec sz.bits → BitVec sz.bits → BitVec sz.bits} {g : State → BitVec sz.bits → BitVec sz.bits → Flags}
    (h : aluRd sz src d s f g = .next t) : Reach k s t := by
  refine reach_withSource h fun v s1 u hu => ?_
  cases hu
  exact .step (reach_setRegOp k sz s1 d _) (.flags _ _)

theorem reach_logicRd {k : Bool} {sz : Size} {src : SrcEa} {d : Reg} {s t : State}
    {f : BitVec sz.bits → BitVec sz.bits → BitVec sz.bits} (h : logicRd sz src d s f = .next t) : Reach k s t := by
  refine reach_withSource h fun v s1 u hu => ?_
  cases hu
  exact .step (reach_setRegOp k sz s1 d _) (.flags _ _)

theorem reach_addQuick {c : Bool} {sz : Size} {k : Int} {dst : DstEa} {s t : State}
    (h : addQuick sz k dst s = .next t) : Reach c s t := reach_modifyOp h

theorem reach_shiftOp {k : Bool} {sz : Size} {dst : DstEa} {s t : State} {f : BitVec sz.bits → Bool → BitVec sz.bits}
    {vout cout : BitVec sz.bits → Bool} (h : shiftOp sz dst s f vout cout = .next t) : Reach k s t := reach_modifyOp h

theorem reach_putDecimal (k : Bool) (d : Reg) (n : Nat) (c : Bool) (s : State) : Reach k s (putDecimal d n c s) :=
  .step (reach_setRegOp k .byte s d _) (.flags _ _)

theorem reach_mulxu {k : Bool} {sz : Size} {d : Reg} {b : BitVec sz.bits} {s t : State} (h : mulxu sz d b s = .ok t) :
    Reach k s t := by
  cases sz
  · cases h
    exact .step (Change.reg _ _ _).reach (.flags _ _)
  · simp only [mulxu] at h
    split at h
    · cases h
    · cases h
      exact .step (.step (Change.reg _ _ _).reach (.reg _ _ _)) (.flags _ _)

theorem reach_zeroDivide {k : Bool} {s t : State} (h : zeroDivide s = .ok t) : Reach k s t :=
  reach_takeException (raised_ok h)

theorem reach_divxuByte {k : Bool} {d : Reg} {b : Byte} {s t : State} (h : divxuByte d b s = .ok t) : Reach k s t := by
  simp only [divxuByte] at h
  split at h
  · exact reach_zeroDivide h
  · split at h
    · cases h
      exact .step (.step (Change.reg _ _ _).reach (.flags _ _)) (.draw _ _)
    · cases h
      exact .step (Change.reg _ _ _).reach (.flags _ _)

theorem reach_divxuWord {k : Bool} {d : Reg} {b : Word} {s t : State} (h : divxuWord d b s = .ok t) : Reach k s t := by
  simp only [divxuWord] at h
  split at h
  · cases h
  · split at h
    · exact reach_zeroDivide h
    · split at h
      · cases h
        exact .step (.step (.step (Change.reg _ _ _).reach (.reg _ _ _)) (.flags _ _)) (.draw _ _)
      · cases h
        exact .step (.step (Change.reg _ _ _).reach (.reg _ _ _)) (.flags _ _)

theorem reach_divxu {k : Bool} {sz : Size} {d : Reg} {b : BitVec sz.bits} {s t : State} (h : divxu sz d b s = .ok t) :
    Reach k s t := by
  cases sz
  · exact reach_divxuByte h
  · exact reach_divxuWord h

/-- A bit operation whose write keeps to elementary changes. -/
theorem reach_bitOp {c : Bool} {sz : Size} {dst : DstEa} {other : Option Reg} {k : State → Nat} {s t : State}
    {w : Loc → Nat → BitVec sz.bits → State → Except Stop State} (h : bitOp sz dst other k s w = .next t)
    (hw : ∀ l n v s1 u, l.inSpace s1.mode → w l n v s1 = .ok u → Reach c s1 u) : Reach c s t := by
  refine reach_complete h fun u hu => ?_
  obtain ⟨⟨l, s1⟩, h1, hu⟩ := bind_ok hu
  obtain ⟨hr, hin⟩ := locateDst_ok h1
  simp only at hu
  split at hu
  · cases hu
  · obtain ⟨v, _, hu⟩ := bind_ok hu
    obtain ⟨s2, h2, hu⟩ := bind_ok hu
    cases hu
    exact .step ((hr c).trans (hw _ _ _ _ _ (by rw [(hr c).mode_eq]; exact hin) h2)) (.flags _ _)

theorem reach_bitWrite {c : Bool} {sz : Size} {l : Loc} {s t : State} {v : BitVec sz.bits}
    (hl : l.inSpace s.mode) (h : s.writeOp sz l v = .ok t) : Reach c s t := reach_writeOp h hl

theorem reach_branch8 {k : Bool} {c : Cond} {x : Byte} {s t : State} (h : branch8 c x s = .next t) : Reach k s t := by
  cases h
  split
  · exact (Change.pc _ _).reach
  · exact .refl

theorem reach_branch16 {k : Bool} {c : Cond} {x : Word} {s t : State} (h : branch16 c x s = .next t) : Reach k s t := by
  cases h
  split
  · exact (Change.pc _ _).reach
  · exact .refl

theorem reach_callTo {k : Bool} {w : Word} {s t : State} (h : callTo w s = .next t) : Reach k s t := by
  refine reach_complete h fun u hu => ?_
  obtain ⟨s1, h1, hu⟩ := bind_ok hu
  cases hu
  exact .step (reach_push16 h1) (.pc _ _)

theorem reach_pageCallTo {k : Bool} {p : Byte} {w : Word} {s t : State} (hm : s.mode = .max)
    (h : pageCallTo p w s = .next t) : Reach k s t := by
  refine reach_complete h fun u hu => ?_
  obtain ⟨s1, h1, hu⟩ := bind_ok hu
  obtain ⟨s2, h2, hu⟩ := bind_ok hu
  cases hu
  have hr : Reach k s s2 := (reach_push16 h1).trans (reach_pushCp h2)
  exact .step (.step hr (.cp _ _ (by rw [hr.mode_eq, hm]))) (.pc _ _)

theorem reach_returnDrop {k : Bool} {imm : Word} {s t : State} (h : returnDrop imm s = .ok t) : Reach k s t := by
  obtain ⟨⟨pc, s1⟩, h1, h⟩ := bind_ok h
  cases h
  exact (Reach.step (reach_pop16 h1) (.pc _ _)).trans (reach_setSp k _ _)

theorem reach_pageReturnDrop {k : Bool} {imm : Word} {s t : State} (hm : s.mode = .max)
    (h : pageReturnDrop imm s = .ok t) : Reach k s t := by
  obtain ⟨⟨w, s1⟩, h1, h⟩ := bind_ok h
  have hr : Reach k s s1 := reach_pop16 h1
  exact (Reach.step hr (.cp _ _ (by rw [hr.mode_eq, hm]))).trans (reach_returnDrop h)

theorem inMaximumMode_next {s t : State} {o : Outcome} (h : inMaximumMode s o = .next t) :
    s.mode = .max ∧ o = .next t := by
  unfold inMaximumMode at h
  split at h
  · cases h
  · exact ⟨‹_›, h⟩

theorem pageTarget_next {n : Reg} {s t : State} {k : Byte → Word → Outcome} (h : pageTarget n s k = .next t) :
    n ≠ 7 ∧ k ((s.reg n).extractLsb' 0 8) (s.reg (n + 1)) = .next t := by
  unfold pageTarget at h
  split at h
  · cases h
  · exact ⟨‹_›, h⟩

theorem reach_pageJump {k : Bool} {p : Byte} {a : Word} {s : State} (hm : s.mode = .max) :
    Reach k s ((s.setCp p).setPc a) := .step (Change.cp _ _ hm).reach (.pc _ _)

theorem reach_countAndBranch {k c : Bool} {n : Reg} {x : Byte} {s t : State}
    (h : countAndBranch c n x s = .next t) : Reach k s t := by
  unfold countAndBranch at h
  cases h
  split
  · exact .refl
  · simp only
    split
    · exact (Change.reg _ _ _).reach
    · exact .step (Change.reg _ _ _).reach (.pc _ _)

theorem reach_writeCtl {n : Nat} (cr : CtlReg) (v : BitVec n) (s : State) : Reach true s (writeCtl cr v s) := by
  cases cr <;> first | exact .refl | exact .step .refl (.sr _ _ rfl) | exact .step .refl (.br _ _ rfl) |
    exact .step .refl (.ep _ _ rfl) | exact .step .refl (.dp _ _ rfl) | exact .step .refl (.tp _ _ rfl)

theorem onAllowed_next {sz : Size} {cr : CtlReg} {o : Outcome} {t : State} (h : onAllowed sz cr o = .next t) :
    ctlAllowed sz cr = true ∧ o = .next t := by
  unfold onAllowed at h
  split at h
  · exact ⟨‹_›, h⟩
  · cases h

theorem reach_ctlImmediate {imm : ImmEa} {cr : CtlReg} {s t : State}
    {f : BitVec imm.size.bits → BitVec imm.size.bits → BitVec imm.size.bits}
    (h : ctlImmediate imm cr s f = .next t) : Reach true s t := by
  obtain ⟨_, h⟩ := onAllowed_next h
  cases h
  exact reach_writeCtl _ _ _

theorem reach_linkFrame {k : Bool} {imm : Word} {s t : State} (h : linkFrame imm s = .next t) : Reach k s t := by
  refine reach_complete h fun u hu => ?_
  obtain ⟨s1, h1, hu⟩ := bind_ok hu
  cases hu
  exact (Reach.step (reach_push16 h1) (.reg _ _ _)).trans (reach_setSp k _ _)

/-! ## Every instruction -/

theorem reach_execEaRn {c : Bool} {s t : State} (h : execEaRn s = .next t) : Reach c s t :=
  reach_raiseInvalidInstruction (ofEntry_next h)

theorem reach_execEaInd {c : Bool} {s t : State} (h : execEaInd s = .next t) : Reach c s t :=
  reach_raiseInvalidInstruction (ofEntry_next h)

theorem reach_execEaDisp8 {c : Bool} {s t : State} (h : execEaDisp8 s = .next t) : Reach c s t :=
  reach_raiseInvalidInstruction (ofEntry_next h)

theorem reach_execEaDisp16 {c : Bool} {s t : State} (h : execEaDisp16 s = .next t) : Reach c s t :=
  reach_raiseInvalidInstruction (ofEntry_next h)

theorem reach_execEaPreDec {c : Bool} {s t : State} (h : execEaPreDec s = .next t) : Reach c s t :=
  reach_raiseInvalidInstruction (ofEntry_next h)

theorem reach_execEaPostInc {c : Bool} {s t : State} (h : execEaPostInc s = .next t) : Reach c s t :=
  reach_raiseInvalidInstruction (ofEntry_next h)

theorem reach_execEaAbs8 {c : Bool} {s t : State} (h : execEaAbs8 s = .next t) : Reach c s t :=
  reach_raiseInvalidInstruction (ofEntry_next h)

theorem reach_execEaAbs16 {c : Bool} {s t : State} (h : execEaAbs16 s = .next t) : Reach c s t :=
  reach_raiseInvalidInstruction (ofEntry_next h)

theorem reach_execEaImm8 {c : Bool} {s t : State} (h : execEaImm8 s = .next t) : Reach c s t :=
  reach_raiseInvalidInstruction (ofEntry_next h)

theorem reach_execEaImm16 {c : Bool} {s t : State} (h : execEaImm16 s = .next t) : Reach c s t :=
  reach_raiseInvalidInstruction (ofEntry_next h)

theorem reach_execMovGLoad {c : Bool} {sz : Size} {src : SrcEa} {d : Reg} {s t : State} (h : execMovGLoad sz src d s = .next t) :
    Reach c s t :=
  reach_withSource h fun _ _ _ hu => reach_loadReg hu

theorem reach_execMovGStore {c : Bool} {sz : Size} {r : Reg} {m : MemEa} {s t : State} (h : execMovGStore sz r m s = .next t) :
    Reach c s t :=
  reach_putDest h

theorem reach_execMovGImm8 {c : Bool} {sz : Size} {v : Byte} {m : MemEa} {s t : State} (h : execMovGImm8 sz v m s = .next t) :
    Reach c s t :=
  reach_putDest h

theorem reach_execMovGImm16 {c : Bool} {v : Word} {m : MemEa} {s t : State} (h : execMovGImm16 v m s = .next t) :
    Reach c s t :=
  reach_putDest h

theorem reach_execLdm {c : Bool} {list : Byte} {s t : State} (h : execLdm list s = .next t) : Reach c s t := by
  unfold execLdm at h
  split at h
  · cases h
  · exact reach_complete h fun _ hu => reach_popAll hu

theorem reach_execStm {c : Bool} {list : Byte} {s t : State} (h : execStm list s = .next t) : Reach c s t := by
  unfold execStm at h
  split at h
  · cases h
  · exact reach_complete h fun _ hu => reach_pushAll hu

theorem reach_execXch {c : Bool} {r d : Reg} {s t : State} (h : execXch r d s = .next t) : Reach c s t := by
  cases h
  exact .step (Change.reg _ _ _).reach (.reg _ _ _)

theorem reach_execSwap {c : Bool} {d : Reg} {s t : State} (h : execSwap d s = .next t) : Reach c s t := by
  cases h
  exact .step (.step (Change.reg _ _ _).reach (.flags _ _)) (.draw _ _)

theorem reach_execMovtpe {c : Bool} {r : Reg} {m : MemEa} {s t : State} (h : execMovtpe r m s = .next t) :
    Reach c s t :=
  reach_putDest h

theorem reach_execMovfpe {c : Bool} {m : MemEa} {d : Reg} {s t : State} (h : execMovfpe m d s = .next t) :
    Reach c s t := by
  refine reach_withSource h fun _ _ _ hu => ?_
  cases hu
  exact reach_setRegOp _ _ _ _ _

theorem reach_execAddG {c : Bool} {sz : Size} {src : SrcEa} {d : Reg} {s t : State} (h : execAddG sz src d s = .next t) :
    Reach c s t :=
  reach_aluRd h

theorem reach_execAddQ1 {c : Bool} {sz : Size} {dst : DstEa} {s t : State} (h : execAddQ1 sz dst s = .next t) :
    Reach c s t :=
  reach_addQuick h

theorem reach_execAddQ2 {c : Bool} {sz : Size} {dst : DstEa} {s t : State} (h : execAddQ2 sz dst s = .next t) :
    Reach c s t :=
  reach_addQuick h

theorem reach_execAddQm1 {c : Bool} {sz : Size} {dst : DstEa} {s t : State} (h : execAddQm1 sz dst s = .next t) :
    Reach c s t :=
  reach_addQuick h

theorem reach_execAddQm2 {c : Bool} {sz : Size} {dst : DstEa} {s t : State} (h : execAddQm2 sz dst s = .next t) :
    Reach c s t :=
  reach_addQuick h

theorem reach_execAdds {c : Bool} {sz : Size} {src : SrcEa} {d : Reg} {s t : State} (h : execAdds sz src d s = .next t) :
    Reach c s t := by
  refine reach_withSource h fun _ _ _ hu => ?_
  cases hu
  exact (Change.reg _ _ _).reach

theorem reach_execAddx {c : Bool} {sz : Size} {src : SrcEa} {d : Reg} {s t : State} (h : execAddx sz src d s = .next t) :
    Reach c s t :=
  reach_aluRd h

theorem reach_execDadd {c : Bool} {r d : Reg} {s t : State} (h : execDadd r d s = .next t) : Reach c s t := by
  simp only [execDadd] at h
  split at h
  · cases h
    exact reach_putDecimal _ _ _ _ _
  · cases h

theorem reach_execSub {c : Bool} {sz : Size} {src : SrcEa} {d : Reg} {s t : State} (h : execSub sz src d s = .next t) :
    Reach c s t :=
  reach_aluRd h

theorem reach_execSubs {c : Bool} {sz : Size} {src : SrcEa} {d : Reg} {s t : State} (h : execSubs sz src d s = .next t) :
    Reach c s t := by
  refine reach_withSource h fun _ _ _ hu => ?_
  cases hu
  exact (Change.reg _ _ _).reach

theorem reach_execSubx {c : Bool} {sz : Size} {src : SrcEa} {d : Reg} {s t : State} (h : execSubx sz src d s = .next t) :
    Reach c s t :=
  reach_aluRd h

theorem reach_execDsub {c : Bool} {r d : Reg} {s t : State} (h : execDsub r d s = .next t) : Reach c s t := by
  simp only [execDsub] at h
  split at h
  · cases h
    exact reach_putDecimal _ _ _ _ _
  · cases h

theorem reach_execMulxu {c : Bool} {sz : Size} {src : SrcEa} {d : Reg} {s t : State} (h : execMulxu sz src d s = .next t) :
    Reach c s t :=
  reach_withSource h fun _ _ _ hu => reach_mulxu hu

theorem reach_execDivxu {c : Bool} {sz : Size} {src : SrcEa} {d : Reg} {s t : State} (h : execDivxu sz src d s = .next t) :
    Reach c s t :=
  reach_withSource h fun _ _ _ hu => reach_divxu hu

theorem reach_execCmpG {c : Bool} {sz : Size} {src : SrcEa} {d : Reg} {s t : State} (h : execCmpG sz src d s = .next t) :
    Reach c s t := by
  refine reach_withSource h fun _ _ _ hu => ?_
  cases hu
  exact (Change.flags _ _).reach

theorem reach_execCmpGImm8 {c : Bool} {v : Byte} {m : MemEa} {s t : State} (h : execCmpGImm8 v m s = .next t) :
    Reach c s t :=
  reach_testOp h

theorem reach_execCmpGImm16 {c : Bool} {v : Word} {m : MemEa} {s t : State} (h : execCmpGImm16 v m s = .next t) :
    Reach c s t :=
  reach_testOp h

theorem reach_execExts {c : Bool} {d : Reg} {s t : State} (h : execExts d s = .next t) : Reach c s t := by
  cases h
  exact .step (Change.reg _ _ _).reach (.flags _ _)

theorem reach_execExtu {c : Bool} {d : Reg} {s t : State} (h : execExtu d s = .next t) : Reach c s t := by
  cases h
  exact .step (Change.reg _ _ _).reach (.flags _ _)

theorem reach_execTst {c : Bool} {sz : Size} {dst : DstEa} {s t : State} (h : execTst sz dst s = .next t) :
    Reach c s t :=
  reach_testOp h

theorem reach_execNeg {c : Bool} {sz : Size} {dst : DstEa} {s t : State} (h : execNeg sz dst s = .next t) :
    Reach c s t := by
  refine reach_complete h fun u hu => ?_
  obtain ⟨⟨v, l, s1⟩, h1, hu⟩ := bind_ok hu
  obtain ⟨s2, h2, hu⟩ := bind_ok hu
  obtain ⟨hl, _⟩ := fetchDest_ok h1
  obtain ⟨hr, hin⟩ := locateDst_ok hl
  cases hu
  exact .step (.step ((hr c).trans (reach_writeOp h2 (by rw [(hr c).mode_eq]; exact hin))) (.flags _ _)) (.draw _ _)

theorem reach_execClr {c : Bool} {sz : Size} {dst : DstEa} {s t : State} (h : execClr sz dst s = .next t) :
    Reach c s t :=
  reach_putDest h

theorem reach_execTas {c : Bool} {dst : DstEa} {s t : State} (h : execTas dst s = .next t) : Reach c s t :=
  reach_modifyOp h

theorem reach_execShal {c : Bool} {sz : Size} {dst : DstEa} {s t : State} (h : execShal sz dst s = .next t) :
    Reach c s t :=
  reach_shiftOp h

theorem reach_execShar {c : Bool} {sz : Size} {dst : DstEa} {s t : State} (h : execShar sz dst s = .next t) :
    Reach c s t :=
  reach_shiftOp h

theorem reach_execShll {c : Bool} {sz : Size} {dst : DstEa} {s t : State} (h : execShll sz dst s = .next t) :
    Reach c s t :=
  reach_shiftOp h

theorem reach_execShlr {c : Bool} {sz : Size} {dst : DstEa} {s t : State} (h : execShlr sz dst s = .next t) :
    Reach c s t :=
  reach_shiftOp h

theorem reach_execRotl {c : Bool} {sz : Size} {dst : DstEa} {s t : State} (h : execRotl sz dst s = .next t) :
    Reach c s t :=
  reach_shiftOp h

theorem reach_execRotr {c : Bool} {sz : Size} {dst : DstEa} {s t : State} (h : execRotr sz dst s = .next t) :
    Reach c s t :=
  reach_shiftOp h

theorem reach_execRotxl {c : Bool} {sz : Size} {dst : DstEa} {s t : State} (h : execRotxl sz dst s = .next t) :
    Reach c s t :=
  reach_shiftOp h

theorem reach_execRotxr {c : Bool} {sz : Size} {dst : DstEa} {s t : State} (h : execRotxr sz dst s = .next t) :
    Reach c s t :=
  reach_shiftOp h

theorem reach_execAnd {c : Bool} {sz : Size} {src : SrcEa} {d : Reg} {s t : State} (h : execAnd sz src d s = .next t) :
    Reach c s t :=
  reach_logicRd h

theorem reach_execOr {c : Bool} {sz : Size} {src : SrcEa} {d : Reg} {s t : State} (h : execOr sz src d s = .next t) :
    Reach c s t :=
  reach_logicRd h

theorem reach_execXor {c : Bool} {sz : Size} {src : SrcEa} {d : Reg} {s t : State} (h : execXor sz src d s = .next t) :
    Reach c s t :=
  reach_logicRd h

theorem reach_execNot {c : Bool} {sz : Size} {dst : DstEa} {s t : State} (h : execNot sz dst s = .next t) :
    Reach c s t :=
  reach_modifyOp h

theorem reach_execBsetImm {c : Bool} {sz : Size} {k : BitVec 4} {dst : DstEa} {s t : State} (h : execBsetImm sz k dst s = .next t) :
    Reach c s t :=
  reach_bitOp h fun _ _ _ _ _ hl hu => reach_bitWrite hl hu

theorem reach_execBsetReg {c : Bool} {sz : Size} {r : Reg} {dst : DstEa} {s t : State} (h : execBsetReg sz r dst s = .next t) :
    Reach c s t :=
  reach_bitOp h fun _ _ _ _ _ hl hu => reach_bitWrite hl hu

theorem reach_execBclrImm {c : Bool} {sz : Size} {k : BitVec 4} {dst : DstEa} {s t : State} (h : execBclrImm sz k dst s = .next t) :
    Reach c s t :=
  reach_bitOp h fun _ _ _ _ _ hl hu => reach_bitWrite hl hu

theorem reach_execBclrReg {c : Bool} {sz : Size} {r : Reg} {dst : DstEa} {s t : State} (h : execBclrReg sz r dst s = .next t) :
    Reach c s t :=
  reach_bitOp h fun _ _ _ _ _ hl hu => reach_bitWrite hl hu

theorem reach_execBnotImm {c : Bool} {sz : Size} {k : BitVec 4} {dst : DstEa} {s t : State} (h : execBnotImm sz k dst s = .next t) :
    Reach c s t :=
  reach_bitOp h fun _ _ _ _ _ hl hu => reach_bitWrite hl hu

theorem reach_execBnotReg {c : Bool} {sz : Size} {r : Reg} {dst : DstEa} {s t : State} (h : execBnotReg sz r dst s = .next t) :
    Reach c s t :=
  reach_bitOp h fun _ _ _ _ _ hl hu => reach_bitWrite hl hu

theorem reach_execBtstImm {c : Bool} {sz : Size} {k : BitVec 4} {dst : DstEa} {s t : State} (h : execBtstImm sz k dst s = .next t) :
    Reach c s t := by
  refine reach_bitOp h fun _ _ _ _ _ _ hu => ?_
  cases hu
  exact .refl

theorem reach_execBtstReg {c : Bool} {sz : Size} {r : Reg} {dst : DstEa} {s t : State} (h : execBtstReg sz r dst s = .next t) :
    Reach c s t := by
  refine reach_bitOp h fun _ _ _ _ _ _ hu => ?_
  cases hu
  exact .refl

theorem reach_execMovE {c : Bool} {v : Byte} {d : Reg} {s t : State} (h : execMovE v d s = .next t) : Reach c s t :=
  reach_complete h fun _ hu => reach_loadReg hu

theorem reach_execMovI {c : Bool} {v : Word} {d : Reg} {s t : State} (h : execMovI v d s = .next t) : Reach c s t :=
  reach_complete h fun _ hu => reach_loadReg hu

theorem reach_execMovLB {c : Bool} {a : Byte} {d : Reg} {s t : State} (h : execMovLB a d s = .next t) : Reach c s t :=
  reach_loadFrom h

theorem reach_execMovLW {c : Bool} {a : Byte} {d : Reg} {s t : State} (h : execMovLW a d s = .next t) : Reach c s t :=
  reach_loadFrom h

theorem reach_execMovSB {c : Bool} {r : Reg} {a : Byte} {s t : State} (h : execMovSB r a s = .next t) : Reach c s t :=
  reach_storeTo (phys_lt _ _ _) h

theorem reach_execMovSW {c : Bool} {r : Reg} {a : Byte} {s t : State} (h : execMovSW r a s = .next t) : Reach c s t :=
  reach_storeTo (phys_lt _ _ _) h

theorem reach_execMovFLoadB {c : Bool} {x : Byte} {d : Reg} {s t : State} (h : execMovFLoadB x d s = .next t) :
    Reach c s t :=
  reach_loadFrom h

theorem reach_execMovFLoadW {c : Bool} {x : Byte} {d : Reg} {s t : State} (h : execMovFLoadW x d s = .next t) :
    Reach c s t :=
  reach_loadFrom h

theorem reach_execMovFStoreB {c : Bool} {r : Reg} {x : Byte} {s t : State} (h : execMovFStoreB r x s = .next t) :
    Reach c s t :=
  reach_storeTo (phys_lt _ _ _) h

theorem reach_execMovFStoreW {c : Bool} {r : Reg} {x : Byte} {s t : State} (h : execMovFStoreW r x s = .next t) :
    Reach c s t :=
  reach_storeTo (phys_lt _ _ _) h

theorem reach_execCmpE {c : Bool} {v : Byte} {d : Reg} {s t : State} (h : execCmpE v d s = .next t) : Reach c s t := by
  cases h
  exact (Change.flags _ _).reach

theorem reach_execCmpI {c : Bool} {v : Word} {d : Reg} {s t : State} (h : execCmpI v d s = .next t) : Reach c s t := by
  cases h
  exact (Change.flags _ _).reach

theorem reach_execBra8 {c : Bool} {x : Byte} {s t : State} (h : execBra8 x s = .next t) : Reach c s t :=
  reach_branch8 h

theorem reach_execBrn8 {c : Bool} {x : Byte} {s t : State} (h : execBrn8 x s = .next t) : Reach c s t :=
  reach_branch8 h

theorem reach_execBhi8 {c : Bool} {x : Byte} {s t : State} (h : execBhi8 x s = .next t) : Reach c s t :=
  reach_branch8 h

theorem reach_execBls8 {c : Bool} {x : Byte} {s t : State} (h : execBls8 x s = .next t) : Reach c s t :=
  reach_branch8 h

theorem reach_execBcc8 {c : Bool} {x : Byte} {s t : State} (h : execBcc8 x s = .next t) : Reach c s t :=
  reach_branch8 h

theorem reach_execBcs8 {c : Bool} {x : Byte} {s t : State} (h : execBcs8 x s = .next t) : Reach c s t :=
  reach_branch8 h

theorem reach_execBne8 {c : Bool} {x : Byte} {s t : State} (h : execBne8 x s = .next t) : Reach c s t :=
  reach_branch8 h

theorem reach_execBeq8 {c : Bool} {x : Byte} {s t : State} (h : execBeq8 x s = .next t) : Reach c s t :=
  reach_branch8 h

theorem reach_execBvc8 {c : Bool} {x : Byte} {s t : State} (h : execBvc8 x s = .next t) : Reach c s t :=
  reach_branch8 h

theorem reach_execBvs8 {c : Bool} {x : Byte} {s t : State} (h : execBvs8 x s = .next t) : Reach c s t :=
  reach_branch8 h

theorem reach_execBpl8 {c : Bool} {x : Byte} {s t : State} (h : execBpl8 x s = .next t) : Reach c s t :=
  reach_branch8 h

theorem reach_execBmi8 {c : Bool} {x : Byte} {s t : State} (h : execBmi8 x s = .next t) : Reach c s t :=
  reach_branch8 h

theorem reach_execBge8 {c : Bool} {x : Byte} {s t : State} (h : execBge8 x s = .next t) : Reach c s t :=
  reach_branch8 h

theorem reach_execBlt8 {c : Bool} {x : Byte} {s t : State} (h : execBlt8 x s = .next t) : Reach c s t :=
  reach_branch8 h

theorem reach_execBgt8 {c : Bool} {x : Byte} {s t : State} (h : execBgt8 x s = .next t) : Reach c s t :=
  reach_branch8 h

theorem reach_execBle8 {c : Bool} {x : Byte} {s t : State} (h : execBle8 x s = .next t) : Reach c s t :=
  reach_branch8 h

theorem reach_execBra16 {c : Bool} {x : Word} {s t : State} (h : execBra16 x s = .next t) : Reach c s t :=
  reach_branch16 h

theorem reach_execBrn16 {c : Bool} {x : Word} {s t : State} (h : execBrn16 x s = .next t) : Reach c s t :=
  reach_branch16 h

theorem reach_execBhi16 {c : Bool} {x : Word} {s t : State} (h : execBhi16 x s = .next t) : Reach c s t :=
  reach_branch16 h

theorem reach_execBls16 {c : Bool} {x : Word} {s t : State} (h : execBls16 x s = .next t) : Reach c s t :=
  reach_branch16 h

theorem reach_execBcc16 {c : Bool} {x : Word} {s t : State} (h : execBcc16 x s = .next t) : Reach c s t :=
  reach_branch16 h

theorem reach_execBcs16 {c : Bool} {x : Word} {s t : State} (h : execBcs16 x s = .next t) : Reach c s t :=
  reach_branch16 h

theorem reach_execBne16 {c : Bool} {x : Word} {s t : State} (h : execBne16 x s = .next t) : Reach c s t :=
  reach_branch16 h

theorem reach_execBeq16 {c : Bool} {x : Word} {s t : State} (h : execBeq16 x s = .next t) : Reach c s t :=
  reach_branch16 h

theorem reach_execBvc16 {c : Bool} {x : Word} {s t : State} (h : execBvc16 x s = .next t) : Reach c s t :=
  reach_branch16 h

theorem reach_execBvs16 {c : Bool} {x : Word} {s t : State} (h : execBvs16 x s = .next t) : Reach c s t :=
  reach_branch16 h

theorem reach_execBpl16 {c : Bool} {x : Word} {s t : State} (h : execBpl16 x s = .next t) : Reach c s t :=
  reach_branch16 h

theorem reach_execBmi16 {c : Bool} {x : Word} {s t : State} (h : execBmi16 x s = .next t) : Reach c s t :=
  reach_branch16 h

theorem reach_execBge16 {c : Bool} {x : Word} {s t : State} (h : execBge16 x s = .next t) : Reach c s t :=
  reach_branch16 h

theorem reach_execBlt16 {c : Bool} {x : Word} {s t : State} (h : execBlt16 x s = .next t) : Reach c s t :=
  reach_branch16 h

theorem reach_execBgt16 {c : Bool} {x : Word} {s t : State} (h : execBgt16 x s = .next t) : Reach c s t :=
  reach_branch16 h

theorem reach_execBle16 {c : Bool} {x : Word} {s t : State} (h : execBle16 x s = .next t) : Reach c s t :=
  reach_branch16 h

theorem reach_execJmpInd {c : Bool} {n : Reg} {s t : State} (h : execJmpInd n s = .next t) : Reach c s t := by
  cases h
  exact (Change.pc _ _).reach

theorem reach_execJmpAbs {c : Bool} {a : Word} {s t : State} (h : execJmpAbs a s = .next t) : Reach c s t := by
  cases h
  exact (Change.pc _ _).reach

theorem reach_execJmpDisp8 {c : Bool} {n : Reg} {x : Byte} {s t : State} (h : execJmpDisp8 n x s = .next t) :
    Reach c s t := by
  cases h
  exact (Change.pc _ _).reach

theorem reach_execJmpDisp16 {c : Bool} {n : Reg} {x : Word} {s t : State} (h : execJmpDisp16 n x s = .next t) :
    Reach c s t := by
  cases h
  exact (Change.pc _ _).reach

theorem reach_execBsr8 {c : Bool} {x : Byte} {s t : State} (h : execBsr8 x s = .next t) : Reach c s t :=
  reach_callTo h

theorem reach_execBsr16 {c : Bool} {x : Word} {s t : State} (h : execBsr16 x s = .next t) : Reach c s t :=
  reach_callTo h

theorem reach_execJsrInd {c : Bool} {n : Reg} {s t : State} (h : execJsrInd n s = .next t) : Reach c s t :=
  reach_callTo h

theorem reach_execJsrAbs {c : Bool} {a : Word} {s t : State} (h : execJsrAbs a s = .next t) : Reach c s t :=
  reach_callTo h

theorem reach_execJsrDisp8 {c : Bool} {n : Reg} {x : Byte} {s t : State} (h : execJsrDisp8 n x s = .next t) :
    Reach c s t :=
  reach_callTo h

theorem reach_execJsrDisp16 {c : Bool} {n : Reg} {x : Word} {s t : State} (h : execJsrDisp16 n x s = .next t) :
    Reach c s t :=
  reach_callTo h

theorem reach_execRts {c : Bool} {s t : State} (h : execRts s = .next t) : Reach c s t :=
  reach_complete h fun _ hu => reach_returnDrop hu

theorem reach_execRtd8 {c : Bool} {v : Byte} {s t : State} (h : execRtd8 v s = .next t) : Reach c s t :=
  reach_complete h fun _ hu => reach_returnDrop hu

theorem reach_execRtd16 {c : Bool} {v : Word} {s t : State} (h : execRtd16 v s = .next t) : Reach c s t :=
  reach_complete h fun _ hu => reach_returnDrop hu

theorem reach_execScbF {c : Bool} {n : Reg} {x : Byte} {s t : State} (h : execScbF n x s = .next t) : Reach c s t :=
  reach_countAndBranch h

theorem reach_execScbNe {c : Bool} {n : Reg} {x : Byte} {s t : State} (h : execScbNe n x s = .next t) : Reach c s t :=
  reach_countAndBranch h

theorem reach_execScbEq {c : Bool} {n : Reg} {x : Byte} {s t : State} (h : execScbEq n x s = .next t) : Reach c s t :=
  reach_countAndBranch h

theorem reach_execPjmpAbs {c : Bool} {p : Byte} {a : Word} {s t : State} (h : execPjmpAbs p a s = .next t) :
    Reach c s t := by
  obtain ⟨hm, h⟩ := inMaximumMode_next h
  cases h
  exact reach_pageJump hm

theorem reach_execPjmpInd {c : Bool} {n : Reg} {s t : State} (h : execPjmpInd n s = .next t) : Reach c s t := by
  obtain ⟨hm, h⟩ := inMaximumMode_next h
  obtain ⟨_, h⟩ := pageTarget_next h
  cases h
  exact reach_pageJump hm

theorem reach_execPjsrAbs {c : Bool} {p : Byte} {a : Word} {s t : State} (h : execPjsrAbs p a s = .next t) :
    Reach c s t := by
  obtain ⟨hm, h⟩ := inMaximumMode_next h
  exact reach_pageCallTo hm h

theorem reach_execPjsrInd {c : Bool} {n : Reg} {s t : State} (h : execPjsrInd n s = .next t) : Reach c s t := by
  obtain ⟨hm, h⟩ := inMaximumMode_next h
  obtain ⟨_, h⟩ := pageTarget_next h
  exact reach_pageCallTo hm h

theorem reach_execPrts {c : Bool} {s t : State} (h : execPrts s = .next t) : Reach c s t := by
  obtain ⟨hm, h⟩ := inMaximumMode_next h
  exact reach_complete h fun _ hu => reach_pageReturnDrop hm hu

theorem reach_execPrtd8 {c : Bool} {v : Byte} {s t : State} (h : execPrtd8 v s = .next t) : Reach c s t := by
  obtain ⟨hm, h⟩ := inMaximumMode_next h
  exact reach_complete h fun _ hu => reach_pageReturnDrop hm hu

theorem reach_execPrtd16 {c : Bool} {v : Word} {s t : State} (h : execPrtd16 v s = .next t) : Reach c s t := by
  obtain ⟨hm, h⟩ := inMaximumMode_next h
  exact reach_complete h fun _ hu => reach_pageReturnDrop hm hu

theorem reach_execTrapa {c : Bool} {v : BitVec 4} {s t : State} (h : execTrapa v s = .next t) : Reach c s t :=
  reach_takeException (ofEntry_next h)

theorem reach_execTrapVs {c : Bool} {s t : State} (h : execTrapVs s = .next t) : Reach c s t := by
  unfold execTrapVs at h
  split at h
  · exact reach_takeException (ofEntry_next h)
  · cases h
    exact .refl

theorem reach_execRte {s t : State} (h : execRte s = .next t) : Reach true s t :=
  reach_complete h fun _ hu => reach_returnFromException hu

theorem reach_execLink8 {c : Bool} {v : Byte} {s t : State} (h : execLink8 v s = .next t) : Reach c s t :=
  reach_linkFrame h

theorem reach_execLink16 {c : Bool} {v : Word} {s t : State} (h : execLink16 v s = .next t) : Reach c s t :=
  reach_linkFrame h

theorem reach_execUnlk {c : Bool} {s t : State} (h : execUnlk s = .next t) : Reach c s t := by
  refine reach_complete h fun u hu => ?_
  obtain ⟨⟨v, s1⟩, h1, hu⟩ := bind_ok hu
  cases hu
  exact .step ((reach_setSp _ _ _).trans (reach_pop16 h1)) (.reg _ _ _)

theorem reach_execLdc {sz : Size} {src : SrcEa} {cr : CtlReg} {s t : State} (h : execLdc sz src cr s = .next t) :
    Reach true s t := by
  obtain ⟨_, h⟩ := onAllowed_next h
  refine reach_withSource h fun _ _ _ hu => ?_
  cases hu
  exact reach_writeCtl _ _ _

theorem reach_execStc {c : Bool} {sz : Size} {cr : CtlReg} {dst : DstEa} {s t : State} (h : execStc sz cr dst s = .next t) :
    Reach c s t := by
  obtain ⟨_, h⟩ := onAllowed_next h
  exact reach_putDest h

theorem reach_execAndc {imm : ImmEa} {cr : CtlReg} {s t : State} (h : execAndc imm cr s = .next t) : Reach true s t :=
  reach_ctlImmediate h

theorem reach_execOrc {imm : ImmEa} {cr : CtlReg} {s t : State} (h : execOrc imm cr s = .next t) : Reach true s t :=
  reach_ctlImmediate h

theorem reach_execXorc {imm : ImmEa} {cr : CtlReg} {s t : State} (h : execXorc imm cr s = .next t) : Reach true s t :=
  reach_ctlImmediate h

theorem reach_execNop {c : Bool} {s t : State} (h : execNop s = .next t) : Reach c s t := by
  cases h
  exact .refl

/-- Every instruction but SLEEP reaches its result by elementary changes, and only LDC, ANDC, ORC, XORC and RTE by those
that write SR as a whole, BR or a page register. -/
theorem exec_reach (i : Instr) (s t : State) (hs : i ≠ .sleep) (h : exec i s = .next t) :
    Reach (writesControl i) s t := by
  cases i with
  | eaRn => exact reach_execEaRn h
  | eaInd => exact reach_execEaInd h
  | eaDisp8 => exact reach_execEaDisp8 h
  | eaDisp16 => exact reach_execEaDisp16 h
  | eaPreDec => exact reach_execEaPreDec h
  | eaPostInc => exact reach_execEaPostInc h
  | eaAbs8 => exact reach_execEaAbs8 h
  | eaAbs16 => exact reach_execEaAbs16 h
  | eaImm8 => exact reach_execEaImm8 h
  | eaImm16 => exact reach_execEaImm16 h
  | movGLoad => exact reach_execMovGLoad h
  | movGStore => exact reach_execMovGStore h
  | movGImm8 => exact reach_execMovGImm8 h
  | movGImm16 => exact reach_execMovGImm16 h
  | ldm => exact reach_execLdm h
  | stm => exact reach_execStm h
  | xch => exact reach_execXch h
  | swap => exact reach_execSwap h
  | movtpe => exact reach_execMovtpe h
  | movfpe => exact reach_execMovfpe h
  | addG => exact reach_execAddG h
  | addQ1 => exact reach_execAddQ1 h
  | addQ2 => exact reach_execAddQ2 h
  | addQm1 => exact reach_execAddQm1 h
  | addQm2 => exact reach_execAddQm2 h
  | adds => exact reach_execAdds h
  | addx => exact reach_execAddx h
  | dadd => exact reach_execDadd h
  | sub => exact reach_execSub h
  | subs => exact reach_execSubs h
  | subx => exact reach_execSubx h
  | dsub => exact reach_execDsub h
  | mulxu => exact reach_execMulxu h
  | divxu => exact reach_execDivxu h
  | cmpG => exact reach_execCmpG h
  | cmpGImm8 => exact reach_execCmpGImm8 h
  | cmpGImm16 => exact reach_execCmpGImm16 h
  | exts => exact reach_execExts h
  | extu => exact reach_execExtu h
  | tst => exact reach_execTst h
  | neg => exact reach_execNeg h
  | clr => exact reach_execClr h
  | tas => exact reach_execTas h
  | shal => exact reach_execShal h
  | shar => exact reach_execShar h
  | shll => exact reach_execShll h
  | shlr => exact reach_execShlr h
  | rotl => exact reach_execRotl h
  | rotr => exact reach_execRotr h
  | rotxl => exact reach_execRotxl h
  | rotxr => exact reach_execRotxr h
  | and => exact reach_execAnd h
  | or => exact reach_execOr h
  | xor => exact reach_execXor h
  | not => exact reach_execNot h
  | bsetImm => exact reach_execBsetImm h
  | bsetReg => exact reach_execBsetReg h
  | bclrImm => exact reach_execBclrImm h
  | bclrReg => exact reach_execBclrReg h
  | bnotImm => exact reach_execBnotImm h
  | bnotReg => exact reach_execBnotReg h
  | btstImm => exact reach_execBtstImm h
  | btstReg => exact reach_execBtstReg h
  | movE => exact reach_execMovE h
  | movI => exact reach_execMovI h
  | movLB => exact reach_execMovLB h
  | movLW => exact reach_execMovLW h
  | movSB => exact reach_execMovSB h
  | movSW => exact reach_execMovSW h
  | movFLoadB => exact reach_execMovFLoadB h
  | movFLoadW => exact reach_execMovFLoadW h
  | movFStoreB => exact reach_execMovFStoreB h
  | movFStoreW => exact reach_execMovFStoreW h
  | cmpE => exact reach_execCmpE h
  | cmpI => exact reach_execCmpI h
  | bra8 => exact reach_execBra8 h
  | brn8 => exact reach_execBrn8 h
  | bhi8 => exact reach_execBhi8 h
  | bls8 => exact reach_execBls8 h
  | bcc8 => exact reach_execBcc8 h
  | bcs8 => exact reach_execBcs8 h
  | bne8 => exact reach_execBne8 h
  | beq8 => exact reach_execBeq8 h
  | bvc8 => exact reach_execBvc8 h
  | bvs8 => exact reach_execBvs8 h
  | bpl8 => exact reach_execBpl8 h
  | bmi8 => exact reach_execBmi8 h
  | bge8 => exact reach_execBge8 h
  | blt8 => exact reach_execBlt8 h
  | bgt8 => exact reach_execBgt8 h
  | ble8 => exact reach_execBle8 h
  | bra16 => exact reach_execBra16 h
  | brn16 => exact reach_execBrn16 h
  | bhi16 => exact reach_execBhi16 h
  | bls16 => exact reach_execBls16 h
  | bcc16 => exact reach_execBcc16 h
  | bcs16 => exact reach_execBcs16 h
  | bne16 => exact reach_execBne16 h
  | beq16 => exact reach_execBeq16 h
  | bvc16 => exact reach_execBvc16 h
  | bvs16 => exact reach_execBvs16 h
  | bpl16 => exact reach_execBpl16 h
  | bmi16 => exact reach_execBmi16 h
  | bge16 => exact reach_execBge16 h
  | blt16 => exact reach_execBlt16 h
  | bgt16 => exact reach_execBgt16 h
  | ble16 => exact reach_execBle16 h
  | jmpInd => exact reach_execJmpInd h
  | jmpAbs => exact reach_execJmpAbs h
  | jmpDisp8 => exact reach_execJmpDisp8 h
  | jmpDisp16 => exact reach_execJmpDisp16 h
  | bsr8 => exact reach_execBsr8 h
  | bsr16 => exact reach_execBsr16 h
  | jsrInd => exact reach_execJsrInd h
  | jsrAbs => exact reach_execJsrAbs h
  | jsrDisp8 => exact reach_execJsrDisp8 h
  | jsrDisp16 => exact reach_execJsrDisp16 h
  | rts => exact reach_execRts h
  | rtd8 => exact reach_execRtd8 h
  | rtd16 => exact reach_execRtd16 h
  | scbF => exact reach_execScbF h
  | scbNe => exact reach_execScbNe h
  | scbEq => exact reach_execScbEq h
  | pjmpAbs => exact reach_execPjmpAbs h
  | pjmpInd => exact reach_execPjmpInd h
  | pjsrAbs => exact reach_execPjsrAbs h
  | pjsrInd => exact reach_execPjsrInd h
  | prts => exact reach_execPrts h
  | prtd8 => exact reach_execPrtd8 h
  | prtd16 => exact reach_execPrtd16 h
  | trapa => exact reach_execTrapa h
  | trapVs => exact reach_execTrapVs h
  | rte => exact reach_execRte h
  | link8 => exact reach_execLink8 h
  | link16 => exact reach_execLink16 h
  | unlk => exact reach_execUnlk h
  | sleep => exact absurd rfl hs
  | ldc => exact reach_execLdc h
  | stc => exact reach_execStc h
  | andc => exact reach_execAndc h
  | orc => exact reach_execOrc h
  | xorc => exact reach_execXorc h
  | nop => exact reach_execNop h

/-- The fetch of an instruction changes PC alone. -/
theorem fetchInstr_ok {s s1 : State} {i : Instr} (h : fetchInstr s = .ok (i, s1)) : ∃ pc, s1 = s.setPc pc := by
  unfold fetchInstr at h
  split at h
  · cases h
    exact ⟨_, rfl⟩
  · cases h
  · split at h <;> cases h

/-- A fetch that gives no instruction and goes on took the InvalidInstruction exception. -/
theorem fetchInstr_next {s t : State} (h : fetchInstr s = .error (.next t)) : raiseInvalidInstruction s = .ok t := by
  unfold fetchInstr at h
  split at h
  · cases h
  · exact ofEntry_next (by simpa using h)
  · split at h
    · cases h
    · exact ofEntry_next (by simpa using h)

/-- A traced outcome that goes on: the outcome itself with T clear, or a trace exception taken after it. -/
theorem traceAfter_next {b : Bool} {o : Outcome} {t : State} (h : traceAfter b o = .next t) :
    ∃ u, o = .next u ∧ (b = false ∧ t = u ∨ b = true ∧ takeException Config.vecTrace u.pc u = .ok t) := by
  cases o with
  | next u =>
    refine ⟨u, rfl, ?_⟩
    cases b
    · cases h; exact .inl ⟨rfl, rfl⟩
    · exact .inr ⟨rfl, ofEntry_next h⟩
  | fault f => cases h
  | refused r => cases h

end Sys2Proof.Machine
end

