-- ==== Sys2Proof/Laws/Stack.lean ====
section
/-! SUPPORT. The stack: addresses of words near SP, what a push leaves in every field, and what frames compose to. -/

namespace Sys2Proof.Machine

/-! ## Addresses of one space -/

/-- Two addresses of one space are the same only at the same offset (20_memory.md R53). -/
theorem phys_inj {s : State} {sp : Space} {a b : Word} (h : phys s sp a = phys s sp b) : a = b := by
  have key : ∀ x : Word, (phys s sp x).setWidth 16 = x := by
    intro x
    unfold phys
    cases s.mode
    · ext i hi
      simp
    · exact BitVec.setWidth_append_eq_right
  rw [← key a, h, key b]

/-- The byte after an even offset is the next byte of the page. -/
theorem phys_succ (s : State) (sp : Space) (a : Word) (h : a.getLsbD 0 = false) :
    phys s sp a + 1 = phys s sp (a + 1) := by
  have ha : a.toNat % 2 = 0 := by
    simpa [BitVec.getLsbD, Nat.testBit_zero] using h
  unfold phys
  cases s.mode
  · show a.setWidth 24 + 1 = (a + 1).setWidth 24
    bv_omega
  · show pageOf s sp ++ a + 1 = pageOf s sp ++ (a + 1)
    have hx : ∀ x : Word, (pageOf s sp ++ x).toNat = (pageOf s sp).toNat * 65536 + x.toNat := fun x => by
      rw [BitVec.toNat_append, ← Nat.shiftLeft_add_eq_or_of_lt x.isLt, Nat.shiftLeft_eq]
    apply BitVec.eq_of_toNat_eq
    have := a.isLt
    have := (pageOf s sp).isLt
    have h1 : (a + 1).toNat = a.toNat + 1 := by bv_omega
    rw [BitVec.toNat_add, hx, hx, h1, show (1 : Addr).toNat = 1 from rfl]
    omega

/-- A stack address depends on the mode and TP alone. -/
theorem phys_stack_congr {s t : State} (hm : t.mode = s.mode) (ht : t.tp = s.tp) (a : Word) :
    phys t .stack a = phys s .stack a := by
  simp only [phys, pageOf, hm, ht]

/-- A vector address depends on the mode alone. -/
theorem phys_vector_congr {s t : State} (hm : t.mode = s.mode) (a : Word) :
    phys t .vector a = phys s .vector a := by
  simp only [phys, pageOf, hm]

/-- An update that leaves the mode, CP, EP, DP and TP leaves every address where it is. -/
theorem phys_congr {s t : State} (hm : t.mode = s.mode) (hc : t.cp = s.cp) (he : t.ep = s.ep) (hd : t.dp = s.dp)
    (ht : t.tp = s.tp) (sp : Space) (a : Word) : phys t sp a = phys s sp a := by
  unfold phys
  rw [hm]
  cases sp <;> simp only [pageOf, regPage, hc, he, hd, ht]

@[simp] theorem phys_setReg (s : State) (r : Reg) (v : Word) (sp : Space) (a : Word) :
    phys (s.setReg r v) sp a = phys s sp a := phys_congr rfl rfl rfl rfl rfl sp a
@[simp] theorem phys_setSp (s : State) (v : Word) (sp : Space) (a : Word) :
    phys (s.setSp v) sp a = phys s sp a := phys_congr rfl rfl rfl rfl rfl sp a
@[simp] theorem phys_setPc (s : State) (v : Word) (sp : Space) (a : Word) :
    phys (s.setPc v) sp a = phys s sp a := phys_congr rfl rfl rfl rfl rfl sp a
@[simp] theorem phys_setSr (s : State) (v : Status) (sp : Space) (a : Word) :
    phys (s.setSr v) sp a = phys s sp a := phys_congr rfl rfl rfl rfl rfl sp a
@[simp] theorem phys_setFlags (s : State) (f : Flags) (sp : Space) (a : Word) :
    phys (s.setFlags f) sp a = phys s sp a := phys_congr rfl rfl rfl rfl rfl sp a
@[simp] theorem phys_setRunState (s : State) (v : RunState) (sp : Space) (a : Word) :
    phys (s.setRunState v) sp a = phys s sp a := phys_congr rfl rfl rfl rfl rfl sp a
@[simp] theorem phys_addDraws (s : State) (k : Nat) (sp : Space) (a : Word) :
    phys (s.addDraws k) sp a = phys s sp a := phys_congr rfl rfl rfl rfl rfl sp a
@[simp] theorem phys_storeByte (s : State) (b : Addr) (v : Byte) (sp : Space) (a : Word) :
    phys (s.storeByte b v) sp a = phys s sp a := phys_congr rfl rfl rfl rfl rfl sp a
@[simp] theorem phys_storeWord (s : State) (b : Addr) (v : Word) (sp : Space) (a : Word) :
    phys (s.storeWord b v) sp a = phys s sp a := phys_congr rfl rfl rfl rfl rfl sp a
@[simp] theorem phys_pushRaw (s : State) (v : Word) (sp : Space) (a : Word) :
    phys (s.pushRaw v) sp a = phys s sp a := phys_congr rfl rfl rfl rfl rfl sp a
@[simp] theorem phys_setCp_stack (s : State) (v : Byte) (a : Word) :
    phys (s.setCp v) .stack a = phys s .stack a := phys_stack_congr rfl rfl a

/-! ## Even addresses -/

/-- An even address is no odd one. -/
theorem ne_succ_of_even {a b : Addr} (ha : isEven a = true) (hb : isEven b = true) : a ≠ b + 1 := by
  rw [isEven_iff] at ha hb
  intro h
  subst h
  bv_omega

/-- A word at an even address after a word was stored at an even address. -/
theorem State.wordAt_storeWord_even (s : State) (a : Addr) (v : Word) (b : Addr) (ha : isEven a = true)
    (hb : isEven b = true) : (s.storeWord a v).wordAt b = if b = a then some v else s.wordAt b := by
  split
  · subst b
    exact s.wordAt_storeWord a v
  · rename_i h
    exact s.wordAt_storeWord_ne a v b h (ne_succ_of_even hb ha) (fun e => ne_succ_of_even ha hb e.symm)

/-- Two below an even SP is even. -/
theorem sub_two_even (a : Word) (h : a.getLsbD 0 = false) : (a - 2).getLsbD 0 = false := by
  rw [sub_two_parity, h]

/-- An even offset gives an even address. -/
theorem isEven_of_offset (s : State) (sp : Space) (a : Word) (h : a.getLsbD 0 = false) : isEven (phys s sp a) = true := by
  rw [isEven_phys, h]
  rfl

/-! ## A push -/

@[simp] theorem State.pushRaw_mode (s : State) (v : Word) : (s.pushRaw v).mode = s.mode := rfl
@[simp] theorem State.pushRaw_pc (s : State) (v : Word) : (s.pushRaw v).pc = s.pc := rfl
@[simp] theorem State.pushRaw_cp (s : State) (v : Word) : (s.pushRaw v).cp = s.cp := rfl
@[simp] theorem State.pushRaw_sr (s : State) (v : Word) : (s.pushRaw v).sr = s.sr := rfl
@[simp] theorem State.pushRaw_flags (s : State) (v : Word) : (s.pushRaw v).flags = s.flags := rfl
@[simp] theorem State.pushRaw_br (s : State) (v : Word) : (s.pushRaw v).br = s.br := rfl
@[simp] theorem State.pushRaw_ep (s : State) (v : Word) : (s.pushRaw v).ep = s.ep := rfl
@[simp] theorem State.pushRaw_dp (s : State) (v : Word) : (s.pushRaw v).dp = s.dp := rfl
@[simp] theorem State.pushRaw_tp (s : State) (v : Word) : (s.pushRaw v).tp = s.tp := rfl
@[simp] theorem State.pushRaw_runState (s : State) (v : Word) : (s.pushRaw v).runState = s.runState := rfl
@[simp] theorem State.pushRaw_draws (s : State) (v : Word) : (s.pushRaw v).draws = s.draws := rfl

@[simp] theorem State.pushRaw_sp (s : State) (v : Word) : (s.pushRaw v).sp = s.sp - 2 := by
  simp [State.pushRaw, State.sp_eq, State.setSp_eq]

theorem State.pushRaw_reg (s : State) (v : Word) (r : Reg) (h : r ≠ Config.spIndex) :
    (s.pushRaw v).reg r = s.reg r := by
  simp [State.pushRaw, State.setSp_eq, h]

theorem State.pushRaw_byteAt (s : State) (v : Word) (b : Addr) :
    (s.pushRaw v).byteAt b =
      if b = phys s .stack (s.sp - 2) then some (v.extractLsb' 8 8)
      else if b = phys s .stack (s.sp - 2) + 1 then some (v.extractLsb' 0 8) else s.byteAt b :=
  (s.setSp (s.sp - 2)).byteAt_storeWord _ _ _

theorem State.pushRaw_wordAt (s : State) (v : Word) (b : Addr) (hs : s.sp.getLsbD 0 = false) (hb : isEven b = true) :
    (s.pushRaw v).wordAt b = if b = phys s .stack (s.sp - 2) then some v else s.wordAt b :=
  (s.setSp (s.sp - 2)).wordAt_storeWord_even _ _ _ (by rw [isEven_phys, sub_two_parity, hs]; rfl) hb

/-- A push changes no byte but the two of the word pushed. -/
theorem sameMemory_pushRaw (s : State) (v : Word) : sameMemory (stackBytes s 1) s (s.pushRaw v) := by
  intro a ha
  have h : a ≠ phys s .stack (s.sp - 2) ∧ a ≠ phys s .stack (s.sp - 2) + 1 := by
    constructor <;> rintro rfl <;> exact ha (by simp [stackBytes, operandBytes, List.range_succ])
  rw [State.pushRaw_byteAt, if_neg h.1, if_neg h.2]

/-! ## Frames -/

theorem sameRegs_refl (rs : List Reg) (s : State) : sameRegs rs s s := fun _ _ => rfl

theorem sameRegs.mono {rs qs : List Reg} {s t : State} (h : sameRegs rs s t) (hq : ∀ r ∈ rs, r ∈ qs) :
    sameRegs qs s t := fun r hr => h r fun hm => hr (hq r hm)

theorem sameRegs.trans {rs : List Reg} {s t u : State} (h1 : sameRegs rs s t) (h2 : sameRegs rs t u) :
    sameRegs rs s u := fun r hr => (h2 r hr).trans (h1 r hr)

theorem sameControl_refl (s : State) : sameControl s s := ⟨rfl, rfl, rfl, rfl, rfl, rfl, rfl, rfl, rfl⟩

theorem sameControl.trans {s t u : State} (h1 : sameControl s t) (h2 : sameControl t u) : sameControl s u := by
  obtain ⟨a1, a2, a3, a4, a5, a6, a7, a8, a9⟩ := h1
  obtain ⟨b1, b2, b3, b4, b5, b6, b7, b8, b9⟩ := h2
  exact ⟨b1.trans a1, b2.trans a2, b3.trans a3, b4.trans a4, b5.trans a5, b6.trans a6, b7.trans a7, b8.trans a8,
    b9.trans a9⟩

theorem sameMemory_refl (bytes : List Addr) (s : State) : sameMemory bytes s s := fun _ _ => rfl

theorem sameMemory.mono {as bs : List Addr} {s t : State} (h : sameMemory as s t) (hb : ∀ a ∈ as, a ∈ bs) :
    sameMemory bs s t := fun a ha => h a fun hm => ha (hb a hm)

theorem sameMemory.trans {bytes : List Addr} {s t u : State} (h1 : sameMemory bytes s t) (h2 : sameMemory bytes t u) :
    sameMemory bytes s u := fun a ha => (h2 a ha).trans (h1 a ha)

theorem framed_refl (rs : List Reg) (bytes : List Addr) (s : State) : framed rs bytes s s :=
  ⟨sameRegs_refl rs s, sameControl_refl s, sameMemory_refl bytes s⟩

theorem framed.mono {rs qs : List Reg} {as bs : List Addr} {s t : State} (h : framed rs as s t)
    (hq : ∀ r ∈ rs, r ∈ qs) (hb : ∀ a ∈ as, a ∈ bs) : framed qs bs s t :=
  ⟨h.1.mono hq, h.2.1, h.2.2.mono hb⟩

theorem framed.trans {rs : List Reg} {bytes : List Addr} {s t u : State} (h1 : framed rs bytes s t)
    (h2 : framed rs bytes t u) : framed rs bytes s u :=
  ⟨h1.1.trans h2.1, h1.2.1.trans h2.2.1, h1.2.2.trans h2.2.2⟩

theorem framed_setReg (s : State) (r : Reg) (v : Word) : framed [r] [] s (s.setReg r v) :=
  ⟨fun q hq => by simp [show q ≠ r by simpa using hq], ⟨rfl, rfl, rfl, rfl, rfl, rfl, rfl, rfl, rfl⟩, fun _ _ => rfl⟩

theorem framed_setRegOp (s : State) (sz : Size) (r : Reg) (v : BitVec sz.bits) :
    framed [r] [] s (s.setRegOp sz r v) := by
  obtain ⟨w, hw⟩ := s.setRegOp_eq sz r v
  rw [hw]
  exact framed_setReg s r w

theorem framed_setFlags (s : State) (f : Flags) : framed [] [] s (s.setFlags f) :=
  ⟨fun _ _ => rfl, ⟨rfl, rfl, rfl, rfl, rfl, rfl, rfl, rfl, rfl⟩, fun _ _ => rfl⟩

theorem framed_setPc (s : State) (v : Word) : framed [] [] s (s.setPc v) :=
  ⟨fun _ _ => rfl, ⟨rfl, rfl, rfl, rfl, rfl, rfl, rfl, rfl, rfl⟩, fun _ _ => rfl⟩

theorem framed_storeMem (s : State) (sz : Size) (a : Addr) (v : BitVec sz.bits) :
    framed [] (operandBytes sz a) s (s.storeMem sz a v) := by
  cases sz
  · refine ⟨fun _ _ => rfl, ⟨rfl, rfl, rfl, rfl, rfl, rfl, rfl, rfl, rfl⟩, fun b hb => ?_⟩
    have hb : b ≠ a := by simpa [operandBytes] using hb
    rw [State.storeMem_byte, State.byteAt_storeByte, if_neg hb]
  · refine ⟨fun _ _ => rfl, ⟨rfl, rfl, rfl, rfl, rfl, rfl, rfl, rfl, rfl⟩, fun b hb => ?_⟩
    have hb : b ≠ a ∧ b ≠ a + 1 := by simpa [operandBytes] using hb
    rw [State.storeMem_word, State.byteAt_storeWord, if_neg hb.1, if_neg hb.2]

/-- The side effect of a memory mode changes its base register alone. -/
theorem framed_memEffect (sz : Size) (m : MemEa) (s : State) : framed (memAuto m) [] s (memEffect sz m s) := by
  cases m <;> first | exact framed_refl _ _ _ | exact framed_setReg _ _ _

end Sys2Proof.Machine
end

