-- ==== Sys2Proof/Laws/Frame.lean ====
section
/-! SUPPORT. The frame an exception pushes from an even SP (60_exceptions.md R296): the state it leaves, its words, its
bytes; and the reading of a vector and of the stack. -/

namespace Sys2Proof.Machine

/-! ## Words that a change of other bytes leaves alone -/

/-- A word is unchanged when its two bytes are. -/
theorem wordAt_congr {s t : State} {a : Addr} (h0 : t.byteAt a = s.byteAt a)
    (h1 : t.byteAt (a + 1) = s.byteAt (a + 1)) : t.wordAt a = s.wordAt a := by
  simp only [State.wordAt, h0, h1]

/-- The low byte of a word. -/
theorem byteAt_succ {s : State} {a : Addr} {h l : Byte} (hw : s.wordAt a = some (h ++ l)) : s.byteAt (a + 1) = some l := by
  simp only [State.wordAt] at hw
  split at hw
  · rename_i x y _ hy
    have e := congrArg (BitVec.setWidth 8) (Option.some.inj hw)
    rw [BitVec.setWidth_append_eq_right, BitVec.setWidth_append_eq_right] at e
    rw [hy, e]
  · cases hw

/-- Four below, six below, and back. -/
theorem sub_two_two (a : Word) : a - 2 - 2 = a - 4 := by bv_omega
theorem sub_four_two (a : Word) : a - 4 - 2 = a - 6 := by bv_omega
theorem sub_four_add_two (a : Word) : a - 4 + 2 = a - 2 := by bv_omega
theorem sub_four_add_four (a : Word) : a - 4 + 4 = a := by bv_omega
theorem sub_six_add_two (a : Word) : a - 6 + 2 = a - 4 := by bv_omega
theorem sub_six_add_four (a : Word) : a - 6 + 4 = a - 2 := by bv_omega
theorem sub_six_add_six (a : Word) : a - 6 + 6 = a := by bv_omega
theorem add_two_sub_two (a : Word) : a + 2 - 2 = a := by bv_omega

/-- Two above an even offset is even. -/
theorem add_two_even (a : Word) (h : a.getLsbD 0 = false) : (a + 2).getLsbD 0 = false := by
  have e := sub_two_parity (a + 2)
  rw [add_two_sub_two] at e
  rw [← e]
  exact h

/-- Words at different offsets lie at different addresses. -/
theorem phys_ne {s : State} {sp : Space} {a b : Word} (h : a ≠ b) : phys s sp a ≠ phys s sp b := fun e => h (phys_inj e)

/-- A pop with SP known. -/
theorem pop16_at {s : State} {v a : Word} (hs : s.sp = a) (he : a.getLsbD 0 = false)
    (hw : s.wordAt (phys s .stack a) = some v) : s.pop16 = .ok (v, s.setSp (a + 2)) := by
  subst hs
  exact pop16_even none he hw

/-! ## The bytes below SP -/

theorem stackBytes_mono (s : State) {j k : Nat} (h : j ≤ k) : ∀ a ∈ stackBytes s j, a ∈ stackBytes s k := by
  intro a ha
  simp only [stackBytes, List.mem_flatMap, List.mem_range] at ha ⊢
  obtain ⟨i, hi, ha⟩ := ha
  exact ⟨i, by omega, ha⟩

/-- The `k` words below the SP of a push are among the `k + 1` words below SP before it. -/
theorem stackBytes_pushRaw (s : State) (k : Nat) (v : Word) :
    ∀ a ∈ stackBytes (s.pushRaw v) k, a ∈ stackBytes s (k + 1) := by
  intro a ha
  simp only [stackBytes, List.mem_flatMap, List.mem_range, State.pushRaw_sp, phys_pushRaw] at ha ⊢
  obtain ⟨j, hj, ha⟩ := ha
  refine ⟨j + 1, by omega, ?_⟩
  rw [show s.sp - BitVec.ofNat 16 (2 * (j + 1) + 2) = s.sp - 2 - BitVec.ofNat 16 (2 * j + 2) by bv_omega]
  exact ha

/-! ## The frame -/

/-- The state with PC, and in maximum mode CP, pushed. -/
def State.pagePushed (ret : Word) (s : State) : State :=
  match s.mode with
  | .min => s.pushRaw ret
  | .max => ((s.pushRaw ret).addDraws 1).pushRaw (s.pushRaw ret).cpWord

/-- The state with the whole frame pushed. -/
def State.framePushed (ret : Word) (s : State) : State := (s.pagePushed ret).pushRaw s.sr.toWord

/-- From an even SP the frame is pushed. -/
theorem stackFrame_even (ret : Word) (s : State) (h : s.sp.getLsbD 0 = false) :
    stackFrame ret s = .ok (s.framePushed ret) := by
  have h2 := sub_two_even _ h
  have h4 := sub_two_even _ h2
  unfold stackFrame State.framePushed State.pagePushed
  rw [push16_even _ _ h]
  simp only [bind, Except.bind, State.pushPage, State.pushRaw_mode]
  cases s.mode
  · exact push16_even _ _ (by rw [State.pushRaw_sp]; exact h2)
  · simp only [State.pushCp]
    rw [push16_even _ _ (by rw [State.addDraws_sp, State.pushRaw_sp]; exact h2)]
    exact push16_even _ _ (by rw [State.pushRaw_sp, State.addDraws_sp, State.pushRaw_sp]; exact h4)

/-- From an odd SP no exception can be taken. -/
theorem stackFrame_odd (ret : Word) (s : State) (h : s.sp.getLsbD 0 = true) :
    stackFrame ret s = .error (.addressError none) := by
  simp only [stackFrame, push16_odd _ _ h, bind, Except.bind]

@[simp] theorem State.framePushed_mode (ret : Word) (s : State) : (s.framePushed ret).mode = s.mode := by
  unfold State.framePushed State.pagePushed
  cases h : s.mode <;> exact h

theorem State.framePushed_fields (ret : Word) (s : State) :
    (s.framePushed ret).cp = s.cp ∧ (s.framePushed ret).sr = s.sr ∧ (s.framePushed ret).br = s.br ∧
      (s.framePushed ret).ep = s.ep ∧ (s.framePushed ret).dp = s.dp ∧ (s.framePushed ret).tp = s.tp := by
  unfold State.framePushed State.pagePushed
  cases s.mode <;> exact ⟨rfl, rfl, rfl, rfl, rfl, rfl⟩

theorem State.framePushed_sp (ret : Word) (s : State) :
    (s.framePushed ret).sp = s.sp - BitVec.ofNat 16 (2 * frameWords s.mode) := by
  unfold State.framePushed State.pagePushed
  cases s.mode
  · rw [State.pushRaw_sp, State.pushRaw_sp]
    exact sub_two_two _
  · rw [State.pushRaw_sp, State.pushRaw_sp, State.addDraws_sp, State.pushRaw_sp, sub_two_two s.sp]
    exact sub_four_two _

theorem sameRegs_framePushed (ret : Word) (s : State) : sameRegs [Config.spIndex] s (s.framePushed ret) := by
  intro r hr
  have hr : r ≠ Config.spIndex := by simpa using hr
  unfold State.framePushed State.pagePushed
  cases s.mode
  · rw [State.pushRaw_reg _ _ _ hr, State.pushRaw_reg _ _ _ hr]
  · rw [State.pushRaw_reg _ _ _ hr, State.pushRaw_reg _ _ _ hr, State.addDraws_reg, State.pushRaw_reg _ _ _ hr]

theorem sameMemory_framePushed (ret : Word) (s : State) :
    sameMemory (stackBytes s (frameWords s.mode)) s (s.framePushed ret) := by
  have h1 := sameMemory_pushRaw s ret
  unfold State.framePushed State.pagePushed
  cases s.mode
  · have h2 := sameMemory_pushRaw (s.pushRaw ret) s.sr.toWord
    exact (h1.mono (stackBytes_mono _ (by decide))).trans (h2.mono (stackBytes_pushRaw s 1 ret))
  · have h2 := sameMemory_pushRaw ((s.pushRaw ret).addDraws 1) (s.pushRaw ret).cpWord
    have h3 := sameMemory_pushRaw (((s.pushRaw ret).addDraws 1).pushRaw (s.pushRaw ret).cpWord) s.sr.toWord
    have h0 : sameMemory (stackBytes s 1) s ((s.pushRaw ret).addDraws 1) := h1
    exact ((h0.mono (stackBytes_mono _ (by decide))).trans (h2.mono fun a ha =>
      stackBytes_mono s (j := 2) (by decide) a (stackBytes_pushRaw s 1 ret a ha))).trans (h3.mono fun a ha =>
        stackBytes_pushRaw s 2 ret a (stackBytes_pushRaw ((s.pushRaw ret).addDraws 1) 1 _ a ha))

/-- The words of the frame: SR at SP, PC at the top, and in maximum mode the word of CP between them. -/
theorem framePushed_words (ret : Word) (s : State) (h : s.sp.getLsbD 0 = false) :
    (s.framePushed ret).wordAt (phys s .stack (s.sp - BitVec.ofNat 16 (2 * frameWords s.mode))) = some s.sr.toWord ∧
      (s.framePushed ret).wordAt (phys s .stack (s.sp - 2)) = some ret ∧
      (s.mode = .max → (s.framePushed ret).wordAt (phys s .stack (s.sp - 4)) = some (s.pushRaw ret).cpWord) := by
  have h2 : (s.sp - 2).getLsbD 0 = false := sub_two_even _ h
  have h4 : (s.sp - 4).getLsbD 0 = false := sub_two_two s.sp ▸ sub_two_even _ h2
  have h6 : (s.sp - 6).getLsbD 0 = false := sub_four_two s.sp ▸ sub_two_even _ h4
  have n24 : phys s .stack (s.sp - 2) ≠ phys s .stack (s.sp - 4) := phys_ne (by bv_omega)
  have n26 : phys s .stack (s.sp - 2) ≠ phys s .stack (s.sp - 6) := phys_ne (by bv_omega)
  have n46 : phys s .stack (s.sp - 4) ≠ phys s .stack (s.sp - 6) := phys_ne (by bv_omega)
  have ev : ∀ a : Word, a.getLsbD 0 = false → isEven (phys s .stack a) = true := isEven_of_offset s .stack
  have d4 : s.sp - BitVec.ofNat 16 (2 * 2) = s.sp - 4 := rfl
  have d6 : s.sp - BitVec.ofNat 16 (2 * 3) = s.sp - 6 := rfl
  unfold State.framePushed State.pagePushed
  cases s.mode
  · simp only [frameWords, d4]
    have A := (s.pushRaw ret).pushRaw_wordAt s.sr.toWord
    have B := s.pushRaw_wordAt ret
    simp only [State.pushRaw_sp, phys_pushRaw, sub_two_two] at A
    refine ⟨?_, ?_, by simp⟩
    · rw [A _ h2 (ev _ h4), if_pos rfl]
    · rw [A _ h2 (ev _ h2), if_neg n24, B _ h (ev _ h2), if_pos rfl]
  · simp only [frameWords, d6]
    have A := (((s.pushRaw ret).addDraws 1).pushRaw (s.pushRaw ret).cpWord).pushRaw_wordAt s.sr.toWord
    have B := ((s.pushRaw ret).addDraws 1).pushRaw_wordAt (s.pushRaw ret).cpWord
    have C := s.pushRaw_wordAt ret
    simp only [State.pushRaw_sp, State.addDraws_sp, phys_addDraws, phys_pushRaw, sub_two_two, sub_four_two] at A B
    refine ⟨?_, ?_, fun _ => ?_⟩
    · rw [A _ h4 (ev _ h6), if_pos rfl]
    · rw [A _ h4 (ev _ h2), if_neg n26, B _ h2 (ev _ h2), if_neg n24, State.addDraws_wordAt, C _ h (ev _ h2), if_pos rfl]
    · rw [A _ h4 (ev _ h4), if_neg n46, B _ h2 (ev _ h4), if_pos rfl]

/-! ## The vector -/

/-- A vector at an even offset lies at an even address. -/
theorem isEven_vector (s : State) (n : Nat) (h : n % 2 = 0) : isEven (phys s .vector (BitVec.ofNat 16 n)) = true := by
  rw [isEven_phys]
  have : (BitVec.ofNat 16 n).toNat % 2 = 0 := by
    simp only [BitVec.toNat_ofNat]
    omega
  simp only [BitVec.getLsbD, Nat.testBit_zero, this]
  rfl

/-- Reading the vector in minimum mode. -/
theorem loadVector_min {n : Nat} {s : State} {pc : Word} (hm : s.mode = .min)
    (h : s.wordAt (phys s .vector (BitVec.ofNat 16 (2 * n))) = some pc) : loadVector n s = .ok (s.setPc pc) := by
  simp only [loadVector, hm, readWord_even none (isEven_vector s (2 * n) (by omega)) h, bind, Except.bind, pure, Except.pure]

/-- Reading the vector in maximum mode. -/
theorem loadVector_max {n : Nat} {s : State} {hi pc : Word} (hm : s.mode = .max)
    (h1 : s.wordAt (phys s .vector (BitVec.ofNat 16 (4 * n))) = some hi)
    (h2 : s.wordAt (phys s .vector (BitVec.ofNat 16 (4 * n + 2))) = some pc) :
    loadVector n s = .ok ((s.setCp (hi.extractLsb' 0 8)).setPc pc) := by
  simp only [loadVector, hm, readWord_even none (isEven_vector s (4 * n) (by omega)) h1,
    readWord_even none (isEven_vector s (4 * n + 2) (by omega)) h2, bind, Except.bind, pure, Except.pure]

end Sys2Proof.Machine
end

