-- ==== Sys2Proof/Laws/Operand.lean ====
section
/-! SUPPORT. What decoding an operand and writing a result leave in the state, in the terms of the frames of Safety: the
provers cite these instead of unfolding `fetchSource`, `fetchDest` and `writeOp`. -/

namespace Sys2Proof.Machine

/-! ## The side effect of a memory mode -/

@[simp] theorem memEffect_pc (sz : Size) (m : MemEa) (s : State) : (memEffect sz m s).pc = s.pc := by cases m <;> rfl
@[simp] theorem memEffect_sr (sz : Size) (m : MemEa) (s : State) : (memEffect sz m s).sr = s.sr := by cases m <;> rfl
@[simp] theorem memEffect_flags (sz : Size) (m : MemEa) (s : State) : (memEffect sz m s).flags = s.flags := by
  cases m <;> rfl
@[simp] theorem memEffect_mem (sz : Size) (m : MemEa) (s : State) : (memEffect sz m s).mem = s.mem := by cases m <;> rfl
@[simp] theorem memEffect_readMem (k sz : Size) (m : MemEa) (s : State) (auto : Option Reg) (a : Addr) :
    (memEffect k m s).readMem sz auto a = s.readMem sz auto a := by
  cases m <;> cases sz <;> rfl

/-- A register that is not the auto-modified base stays. -/
theorem memEffect_reg_ne (sz : Size) (m : MemEa) (s : State) (r : Reg) (h : autoBase m ≠ some r) :
    (memEffect sz m s).reg r = s.reg r := by
  cases m <;> first | rfl | (simp only [autoBase, ne_eq, Option.some.injEq] at h; simp [memEffect, Ne.symm h])

/-- What is not refused as U7 has another register for its base. -/
theorem autoBase_ne {sz : Size} {d : Reg} {m : MemEa} (h : eaRefusal sz (some d) m = none) : autoBase m ≠ some d := by
  intro hb
  simp only [eaRefusal, hb] at h
  split at h
  · cases h
  · simp at h

/-- `memMoved` looks at the base register alone. -/
theorem memMoved_congr {sz : Size} {m : MemEa} {s t u : State} (h : ∀ r, autoBase m = some r → u.reg r = t.reg r)
    (ht : memMoved sz m s t) : memMoved sz m s u := by
  cases m <;> first | trivial | exact (h _ rfl).trans ht

theorem memMoved_memEffect (sz : Size) (m : MemEa) (s : State) : memMoved sz m s (memEffect sz m s) := by
  cases m <;> first | trivial | (cases sz <;> simp [memMoved, memEffect, step16])

/-- The registers of a list that a state keeps. -/
theorem sameRegs.reg_eq {rs : List Reg} {s t : State} (h : sameRegs rs s t) {r : Reg} (hr : r ∉ rs) : t.reg r = s.reg r :=
  h r hr

/-! ## A source operand -/

/-- What is left after a source operand has been read: only its base register has changed. -/
structure SourceRead (sz : Size) (src : SrcEa) (s s1 : State) : Prop where
  framed : framed (srcAuto src) [] s s1
  moved : srcMoved sz src s s1
  pc : s1.pc = s.pc
  sr : s1.sr = s.sr

theorem fetchSource_read {sz : Size} {other : Option Reg} {src : SrcEa} {s s1 : State} {v : BitVec sz.bits}
    (h : fetchSource sz other src s = .ok (v, s1)) : SourceRead sz src s s1 := by
  rcases fetchSource_ok h with ⟨r, rfl, _, rfl⟩ | ⟨i, rfl, _, rfl⟩ | ⟨m, rfl, _, rfl, _⟩
  · exact ⟨framed_refl _ _ _, trivial, rfl, rfl⟩
  · exact ⟨framed_refl _ _ _, trivial, rfl, rfl⟩
  · exact ⟨framed_memEffect sz m s, memMoved_memEffect sz m s, memEffect_pc _ _ _, memEffect_sr _ _ _⟩

/-- The register operand is no base register of the source. -/
theorem fetchSource_ne {sz : Size} {d : Reg} {src : SrcEa} {s s1 : State} {v : BitVec sz.bits}
    (h : fetchSource sz (some d) src s = .ok (v, s1)) : d ∉ srcAuto src := by
  rcases fetchSource_ok h with ⟨r, rfl, _, _⟩ | ⟨i, rfl, _, _⟩ | ⟨m, rfl, hm, _, _⟩
  · simp [srcAuto]
  · simp [srcAuto]
  · simp only [srcAuto, memAuto, Option.mem_toList]
    exact autoBase_ne hm

/-- The register operand has its value still after the source has been read. -/
theorem fetchSource_reg {sz : Size} {d : Reg} {src : SrcEa} {s s1 : State} {v : BitVec sz.bits}
    (h : fetchSource sz (some d) src s = .ok (v, s1)) : s1.reg d = s.reg d :=
  (fetchSource_read h).framed.1 d (fetchSource_ne h)

theorem srcMoved_congr {sz : Size} {src : SrcEa} {s t u : State} (h : ∀ r ∈ srcAuto src, u.reg r = t.reg r)
    (ht : srcMoved sz src s t) : srcMoved sz src s u := by
  cases src with
  | mem m => exact memMoved_congr (fun r hr => h r (by simp [srcAuto, memAuto, hr])) ht
  | reg _ => trivial
  | imm _ => trivial

/-- After a source has been read, writing registers and flags: the frame of the whole instruction. -/
theorem SourceRead.write {sz : Size} {src : SrcEa} {s s1 t : State} {rs : List Reg} (h : SourceRead sz src s s1)
    (ht : Machine.framed rs [] s1 t) (hr : ∀ r ∈ srcAuto src, r ∉ rs) (hpc : t.pc = s1.pc) :
    t.pc = s.pc ∧ srcMoved sz src s t ∧ Machine.framed (rs ++ srcAuto src) [] s t :=
  ⟨hpc.trans h.pc, srcMoved_congr (fun r hm => ht.1 r (hr r hm)) h.moved,
    (h.framed.mono (fun _ hm => List.mem_append_right _ hm) (fun _ hm => hm)).trans
      (ht.mono (fun _ hm => List.mem_append_left _ hm) (fun _ hm => hm))⟩

/-- `OP <EAs>,Rd` that writes its result to Rd and sets flags. -/
theorem wroteReg_of {sz : Size} {d : Reg} {src : SrcEa} {s s1 : State} {v : BitVec sz.bits}
    (h : fetchSource sz (some d) src s = .ok (v, s1)) (r : BitVec sz.bits) (f : Flags) :
    wroteReg sz src d r f s ((s1.setRegOp sz d r).setFlags f) := by
  have hf : Machine.framed [d] [] s1 ((s1.setRegOp sz d r).setFlags f) :=
    (framed_setRegOp s1 sz d r).trans ((framed_setFlags _ f).mono (by simp) (by simp))
  obtain ⟨h1, h2, h3⟩ := (fetchSource_read h).write hf
    (fun q hq hm => fetchSource_ne h (by rw [← List.mem_singleton.1 hm]; exact hq)) (by simp)
  refine ⟨?_, ?_, ?_, h1, h2, by simpa using h3⟩
  · rw [State.setFlags_regOp, State.regOp_setRegOp]
  · rintro rfl
    rw [← fetchSource_reg h]
    simp [State.setRegOp]
  · rfl

/-! ## A destination operand -/

/-- What is left after a destination operand has been located: only its base register has changed. -/
structure DestLocated (sz : Size) (dst : DstEa) (l : Loc) (s s1 : State) : Prop where
  framed : framed (dstAuto dst) [] s s1
  moved : dstMoved sz dst s s1
  pc : s1.pc = s.pc
  sr : s1.sr = s.sr
  regs : ∀ d ∈ l.regs, d ∉ dstAuto dst ∧ s1.reg d = s.reg d

theorem locateDst_located {sz : Size} {other : Option Reg} {dst : DstEa} {s s1 : State} {l : Loc}
    (h : locateDst sz other dst s = .ok (l, s1)) : DestLocated sz dst l s s1 := by
  cases dst with
  | reg r =>
    cases h
    exact ⟨framed_refl _ _ _, trivial, rfl, rfl, fun d _ => ⟨by simp [dstAuto], rfl⟩⟩
  | mem m =>
    obtain ⟨_, rfl, rfl⟩ := locateMem_ok h
    exact ⟨framed_memEffect sz m s, memMoved_memEffect sz m s, memEffect_pc _ _ _, memEffect_sr _ _ _,
      fun d hd => by simp [Loc.regs] at hd⟩

theorem fetchDest_located {sz : Size} {other : Option Reg} {dst : DstEa} {s s1 : State} {l : Loc} {v : BitVec sz.bits}
    (h : fetchDest sz other dst s = .ok (v, l, s1)) : DestLocated sz dst l s s1 := locateDst_located (fetchDest_ok h).1

/-- The OP-field register of an instruction is no base register of its destination. -/
theorem locateDst_ne {sz : Size} {r : Reg} {dst : DstEa} {s s1 : State} {l : Loc}
    (h : locateDst sz (some r) dst s = .ok (l, s1)) : r ∉ dstAuto dst := by
  cases dst with
  | reg q => simp [dstAuto]
  | mem m =>
    obtain ⟨hm, _, _⟩ := locateMem_ok h
    simp only [dstAuto, memAuto, Option.mem_toList]
    exact autoBase_ne hm

theorem dstMoved_congr {sz : Size} {dst : DstEa} {s t u : State} (h : ∀ r ∈ dstAuto dst, u.reg r = t.reg r)
    (ht : dstMoved sz dst s t) : dstMoved sz dst s u := by
  cases dst with
  | mem m => exact memMoved_congr (fun r hr => h r (by simp [dstAuto, memAuto, hr])) ht
  | reg _ => trivial

/-- A memory operand that was read lies at an aligned address. -/
theorem readOp_aligned {sz : Size} {s : State} {l : Loc} {v : BitVec sz.bits} (h : s.readOp sz l = .ok v) :
    ∀ a auto, l = .mem a auto → aligned sz a = true := by
  rintro a auto rfl
  cases sz
  · rfl
  · exact (readWord_ok h).1

/-- An operand that has been read can be written. -/
theorem fetchDest_aligned {sz : Size} {other : Option Reg} {dst : DstEa} {s s1 : State} {l : Loc} {v : BitVec sz.bits}
    (h : fetchDest sz other dst s = .ok (v, l, s1)) : ∀ a auto, l = .mem a auto → aligned sz a = true :=
  readOp_aligned (fetchDest_ok h).2

/-- Writing a located operand at an aligned address answers. -/
theorem writeOp_aligned {sz : Size} {s : State} {l : Loc} (h : ∀ a auto, l = .mem a auto → aligned sz a = true)
    (v : BitVec sz.bits) : s.writeOp sz l v = .ok (s.putOp sz l v) := by
  cases l with
  | reg r => rfl
  | mem a auto => simp only [State.writeOp, h a auto rfl, if_true, State.putOp]

/-- What a written operand leaves: the frame, and the value read back. -/
theorem framed_putOp (s : State) (sz : Size) (l : Loc) (v : BitVec sz.bits) :
    framed l.regs (l.bytes sz) s (s.putOp sz l v) := by
  cases l with
  | reg r => exact framed_setRegOp s sz r v
  | mem a _ => exact framed_storeMem s sz a v

@[simp] theorem putOp_pc (s : State) (sz : Size) (l : Loc) (v : BitVec sz.bits) : (s.putOp sz l v).pc = s.pc := by
  cases l with
  | reg r => simp [State.putOp]
  | mem a _ => cases sz <;> rfl

@[simp] theorem putOp_flags (s : State) (sz : Size) (l : Loc) (v : BitVec sz.bits) :
    (s.putOp sz l v).flags = s.flags := by
  cases l with
  | reg r => simp [State.putOp]
  | mem a _ => cases sz <;> rfl

/-- A stored operand reads back. -/
theorem readMem_storeMem (s : State) (sz : Size) (a : Addr) (v : BitVec sz.bits) (f : Flags) (k : Nat)
    (h : aligned sz a = true) : (((s.storeMem sz a v).setFlags f).addDraws k).readMem sz none a = .ok v := by
  cases sz
  · show (s.storeByte a v).readByte a = .ok v
    simp [State.readByte, State.byteAt_storeByte]
  · exact readWord_even none h (s.wordAt_storeWord a v)

/-- `OP <EAd>` that writes its result to the operand and sets flags; `k` free values may be drawn. -/
theorem wroteOperand_of {sz : Size} {dst : DstEa} {l : Loc} {s s1 : State} (h : DestLocated sz dst l s s1)
    (ha : ∀ a auto, l = .mem a auto → aligned sz a = true) (r : BitVec sz.bits) (f : Flags) (k : Nat) :
    wroteOperand sz dst l r s (((s1.putOp sz l r).setFlags f).addDraws k) := by
  have hf : framed l.regs (l.bytes sz) s1 (((s1.putOp sz l r).setFlags f).addDraws k) :=
    (framed_putOp s1 sz l r).trans ((framed_setFlags _ f).mono (by simp) (by simp))
  refine ⟨?_, by simpa using h.pc, ?_, ?_⟩
  · cases l with
    | reg d =>
      refine ⟨?_, ?_⟩
      · show (s1.setRegOp sz d r).regOp sz d = r
        rw [State.regOp_setRegOp]
      · rintro rfl
        rw [← (h.regs d (by simp [Loc.regs])).2]
        simp [State.putOp, State.setRegOp]
    | mem a auto => exact readMem_storeMem s1 sz a r f k (ha a auto rfl)
  · exact dstMoved_congr (fun q hq => hf.1 q fun hm => (h.regs q hm).1 hq) h.moved
  · exact (h.framed.mono (fun _ hm => List.mem_append_right _ hm) (by simp)).trans
      (hf.mono (fun _ hm => List.mem_append_left _ hm) (fun _ hm => hm))

/-- `OP <EAd>` that only sets flags. -/
theorem testedOperand_of {sz : Size} {dst : DstEa} {l : Loc} {s s1 : State} (h : DestLocated sz dst l s s1) (f : Flags) :
    testedOperand sz dst f s (s1.setFlags f) :=
  ⟨rfl, h.pc, dstMoved_congr (fun _ _ => rfl) h.moved, h.framed.trans ((framed_setFlags s1 f).mono (by simp) (by simp))⟩

end Sys2Proof.Machine
end

