-- ==== Sys2Proof/Tests/Slice0.lean ====
section
/-! SUPPORT. The model's own tests: ill-formed terms, one word of every constructor written out bit by bit, steps whose results
come from 95_test_vectors.md (or, where it has no row, from the rule cited), and for every statement with hypotheses a state
that meets them. -/

namespace Sys2Proof.Machine.Tests

set_option Elab.async false

open Sys2Proof Sys2Proof.Machine

/-! ## Terms no encoding stands for are refused -/

theorem test_ill_formed_byte_immediate : Instr.wellFormed (.addG .word (.imm (.imm8 1)) 0) = false := by decide +kernel

theorem test_ill_formed_word_immediate : Instr.wellFormed (.movGLoad .byte (.imm (.imm16 1)) 0) = false := by decide +kernel

theorem test_ill_formed_ldc : Instr.wellFormed (.ldc .byte (.imm (.imm16 1)) .ccr) = false := by decide +kernel

theorem test_ill_formed_every_source_form :
    (([.adds, .addx, .sub, .subs, .subx, .mulxu, .divxu, .cmpG, .and, .or, .xor, .addG, .movGLoad] :
        List (Size → SrcEa → Reg → Instr)).all fun f =>
      !(f .word (.imm (.imm8 1)) 0).wellFormed && !(f .byte (.imm (.imm16 1)) 0).wellFormed
        && (f .byte (.imm (.imm8 1)) 0).wellFormed && (f .word (.imm (.imm16 1)) 0).wellFormed) = true := by decide +kernel

/-! ## Decoding: words written out from the encodings of 30_encoding.md, R82 and R89 to R96 -/

/-- Each word decodes to its instruction, with nothing left over. -/
def decodesTo (rows : List (List Byte × Instr)) : Bool := rows.all fun p => decide (decode p.1 = .instr p.2 [])

theorem test_decode_unassigned : decodesTo [
    ([0b10101001, 0b00000001], .eaRn .word 1),
    ([0b11010010, 0b00000011], .eaInd .byte 2),
    ([0b11100010, 0xFE, 0b00010000], .eaDisp8 .byte 2 0xFE),
    ([0b11111010, 0x12, 0x34, 0b00001010], .eaDisp16 .word 2 0x1234),
    ([0b10111011, 0b00010001], .eaPreDec .word 3),
    ([0b11000100, 0b00001110], .eaPostInc .byte 4),
    ([0b00001101, 0x55, 0b00000010], .eaAbs8 .word 0x55),
    ([0b00010101, 0x12, 0x34, 0b00001111], .eaAbs16 .byte 0x1234),
    ([0b00000100, 0x77, 0b01111000], .eaImm8 0x77),
    ([0b00001100, 0x12, 0x34, 0b10010000], .eaImm16 0x1234)] = true := by decide +kernel

theorem test_decode_transfer : decodesTo [
    ([0b11011001, 0b10000010], .movGLoad .word (.mem (.ind 1)) 2),
    ([0b10110011, 0b10010100], .movGStore .byte 4 (.preDec 3)),
    ([0b11001101, 0b00000110, 0x80], .movGImm8 .word 0x80 (.postInc 5)),
    ([0b11111001, 0x00, 0x10, 0b00000111, 0xAB, 0xCD], .movGImm16 0xABCD (.disp16 1 0x10)),
    ([0b00000010, 0x7F], .ldm 0x7F),
    ([0b00010010, 0x22], .stm 0x22),
    ([0b10101001, 0b10010110], .xch 1 6),
    ([0b10100101, 0b00010000], .swap 5),
    ([0b11010001, 0b00000000, 0b10010010], .movtpe 2 (.ind 1)),
    ([0b11100001, 0x02, 0b00000000, 0b10000011], .movfpe (.disp8 1 2) 3),
    ([0b01010010, 0x12], .movE 0x12 2),
    ([0b01011111, 0xFE, 0x00], .movI 0xFE00 7),
    ([0b01100011, 0xC0], .movLB 0xC0 3),
    ([0b01101011, 0xC0], .movLW 0xC0 3),
    ([0b01110001, 0x80], .movSB 1 0x80),
    ([0b01111001, 0x80], .movSW 1 0x80),
    ([0b10000000, 0xFF], .movFLoadB 0xFF 0),
    ([0b10001010, 0x02], .movFLoadW 0x02 2),
    ([0b10010011, 0x04], .movFStoreB 3 0x04),
    ([0b10011110, 0xFE], .movFStoreW 6 0xFE)] = true := by decide +kernel

theorem test_decode_arithmetic : decodesTo [
    ([0b11010000, 0b00100001], .addG .byte (.mem (.ind 0)) 1),
    ([0b10101000, 0b00001000], .addQ1 .word (.reg 0)),
    ([0b11010001, 0b00001001], .addQ2 .byte (.mem (.ind 1))),
    ([0b10111001, 0b00001100], .addQm1 .word (.mem (.preDec 1))),
    ([0b11000110, 0b00001101], .addQm2 .byte (.mem (.postInc 6))),
    ([0b00001100, 0x00, 0x02, 0b00101111], .adds .word (.imm (.imm16 2)) 7),
    ([0b10101011, 0b10100001], .addx .word (.reg 3) 1),
    ([0b10100001, 0b00000000, 0b10100000], .dadd 1 0),
    ([0b00000100, 0x01, 0b00110000], .sub .byte (.imm (.imm8 1)) 0),
    ([0b11101001, 0xFE, 0b00111010], .subs .word (.mem (.disp8 1 0xFE)) 2),
    ([0b00011101, 0x20, 0x00, 0b10110100], .subx .word (.mem (.abs16 0x2000)) 4),
    ([0b10100010, 0b00000000, 0b10110101], .dsub 2 5),
    ([0b10100001, 0b10101000], .mulxu .byte (.reg 1) 0),
    ([0b11001010, 0b10111000], .divxu .word (.mem (.postInc 2)) 0),
    ([0b10100001, 0b01110000], .cmpG .byte (.reg 1) 0),
    ([0b00010101, 0x20, 0x00, 0b00000100, 0xFF], .cmpGImm8 0xFF (.abs16 0x2000)),
    ([0b11111010, 0x01, 0x00, 0b00000101, 0x12, 0x34], .cmpGImm16 0x1234 (.disp16 2 0x100)),
    ([0b01000001, 0x80], .cmpE 0x80 1),
    ([0b01001111, 0x12, 0x34], .cmpI 0x1234 7),
    ([0b10100011, 0b00010001], .exts 3),
    ([0b10100100, 0b00010010], .extu 4),
    ([0b00011101, 0xF0, 0x00, 0b00010110], .tst .word (.mem (.abs16 0xF000))),
    ([0b11010001, 0b00010100], .neg .byte (.mem (.ind 1))),
    ([0b10111111, 0b00010011], .clr .word (.mem (.preDec 7))),
    ([0b11010000, 0b00010111], .tas (.mem (.ind 0)))] = true := by decide +kernel

theorem test_decode_shift : decodesTo [
    ([0b10101000, 0b00011000], .shal .word (.reg 0)),
    ([0b10100001, 0b00011001], .shar .byte (.reg 1)),
    ([0b11011010, 0b00011010], .shll .word (.mem (.ind 2))),
    ([0b10110011, 0b00011011], .shlr .byte (.mem (.preDec 3))),
    ([0b11001100, 0b00011100], .rotl .word (.mem (.postInc 4))),
    ([0b11010001, 0b00011101], .rotr .byte (.mem (.ind 1))),
    ([0b00000101, 0x10, 0b00011110], .rotxl .byte (.mem (.abs8 0x10))),
    ([0b00011101, 0x12, 0x34, 0b00011111], .rotxr .word (.mem (.abs16 0x1234)))] = true := by decide +kernel

theorem test_decode_logic_bit : decodesTo [
    ([0b00001100, 0x00, 0xFF, 0b01010000], .and .word (.imm (.imm16 0xFF)) 0),
    ([0b00000100, 0x80, 0b01000001], .or .byte (.imm (.imm8 0x80)) 1),
    ([0b11001001, 0b01100010], .xor .word (.mem (.postInc 1)) 2),
    ([0b10101011, 0b00010101], .not .word (.reg 3)),
    ([0b00011101, 0x20, 0x00, 0b11001111], .bsetImm .word 15 (.mem (.abs16 0x2000))),
    ([0b10101001, 0b01001010], .bsetReg .word 2 (.reg 1)),
    ([0b10110001, 0b11010111], .bclrImm .byte 7 (.mem (.preDec 1))),
    ([0b11011001, 0b01011011], .bclrReg .word 3 (.mem (.ind 1))),
    ([0b10101000, 0b11101000], .bnotImm .word 8 (.reg 0)),
    ([0b11010010, 0b01101001], .bnotReg .byte 1 (.mem (.ind 2))),
    ([0b11010100, 0b11110011], .btstImm .byte 3 (.mem (.ind 4))),
    ([0b10101000, 0b01111010], .btstReg .word 2 (.reg 0))] = true := by decide +kernel

theorem test_decode_bcc8 : decodesTo [
    ([0b00100000, 0x7F], .bra8 0x7F),
    ([0b00100001, 0x7F], .brn8 0x7F),
    ([0b00100010, 0x7F], .bhi8 0x7F),
    ([0b00100011, 0x7F], .bls8 0x7F),
    ([0b00100100, 0x7F], .bcc8 0x7F),
    ([0b00100101, 0x7F], .bcs8 0x7F),
    ([0b00100110, 0x7F], .bne8 0x7F),
    ([0b00100111, 0x7F], .beq8 0x7F),
    ([0b00101000, 0x7F], .bvc8 0x7F),
    ([0b00101001, 0x7F], .bvs8 0x7F),
    ([0b00101010, 0x7F], .bpl8 0x7F),
    ([0b00101011, 0x7F], .bmi8 0x7F),
    ([0b00101100, 0x7F], .bge8 0x7F),
    ([0b00101101, 0x7F], .blt8 0x7F),
    ([0b00101110, 0x7F], .bgt8 0x7F),
    ([0b00101111, 0x7F], .ble8 0x7F)] = true := by decide +kernel

theorem test_decode_bcc16 : decodesTo [
    ([0b00110000, 0x80, 0x01], .bra16 0x8001),
    ([0b00110001, 0x80, 0x01], .brn16 0x8001),
    ([0b00110010, 0x80, 0x01], .bhi16 0x8001),
    ([0b00110011, 0x80, 0x01], .bls16 0x8001),
    ([0b00110100, 0x80, 0x01], .bcc16 0x8001),
    ([0b00110101, 0x80, 0x01], .bcs16 0x8001),
    ([0b00110110, 0x80, 0x01], .bne16 0x8001),
    ([0b00110111, 0x80, 0x01], .beq16 0x8001),
    ([0b00111000, 0x80, 0x01], .bvc16 0x8001),
    ([0b00111001, 0x80, 0x01], .bvs16 0x8001),
    ([0b00111010, 0x80, 0x01], .bpl16 0x8001),
    ([0b00111011, 0x80, 0x01], .bmi16 0x8001),
    ([0b00111100, 0x80, 0x01], .bge16 0x8001),
    ([0b00111101, 0x80, 0x01], .blt16 0x8001),
    ([0b00111110, 0x80, 0x01], .bgt16 0x8001),
    ([0b00111111, 0x80, 0x01], .ble16 0x8001)] = true := by decide +kernel

theorem test_decode_jump : decodesTo [
    ([0b00010001, 0b11010011], .jmpInd 3),
    ([0b00010000, 0x20, 0x00], .jmpAbs 0x2000),
    ([0b00010001, 0b11100010, 0xFC], .jmpDisp8 2 0xFC),
    ([0b00010001, 0b11110010, 0xF0, 0x01], .jmpDisp16 2 0xF001),
    ([0b00001110, 0x02], .bsr8 0x02),
    ([0b00011110, 0xFF, 0xFD], .bsr16 0xFFFD),
    ([0b00010001, 0b11011000], .jsrInd 0),
    ([0b00011000, 0x12, 0x34], .jsrAbs 0x1234),
    ([0b00010001, 0b11101001, 0x02], .jsrDisp8 1 0x02),
    ([0b00010001, 0b11111001, 0x01, 0x02], .jsrDisp16 1 0x0102),
    ([0b00011001], .rts),
    ([0b00010100, 0xFE], .rtd8 0xFE),
    ([0b00011100, 0x01, 0x02], .rtd16 0x0102),
    ([0b00000001, 0b10111001, 0xF9], .scbF 1 0xF9),
    ([0b00000110, 0b10111010, 0xF9], .scbNe 2 0xF9),
    ([0b00000111, 0b10111011, 0x04], .scbEq 3 0x04),
    ([0b00010011, 0x02, 0x10, 0x01], .pjmpAbs 0x02 0x1001),
    ([0b00010001, 0b11000010], .pjmpInd 2),
    ([0b00000011, 0x02, 0x12, 0x34], .pjsrAbs 0x02 0x1234),
    ([0b00010001, 0b11001100], .pjsrInd 4),
    ([0b00010001, 0b00011001], .prts),
    ([0b00010001, 0b00010100, 0x04], .prtd8 0x04),
    ([0b00010001, 0b00011100, 0x01, 0x02], .prtd16 0x0102)] = true := by decide +kernel

theorem test_decode_system : decodesTo [
    ([0b00001000, 0b00011111], .trapa 15),
    ([0b00001001], .trapVs),
    ([0b00001010], .rte),
    ([0b00010111, 0x04], .link8 0x04),
    ([0b00011111, 0xFF, 0xF0], .link16 0xFFF0),
    ([0b00001111], .unlk),
    ([0b00011010], .sleep),
    ([0b11001111, 0b10001000], .ldc .word (.mem (.postInc 7)) .sr),
    ([0b10100000, 0b10011001], .stc .byte .ccr (.reg 0)),
    ([0b00000100, 0x0F, 0b01011011], .andc (.imm8 0x0F) .br),
    ([0b00001100, 0x07, 0x00, 0b01001000], .orc (.imm16 0x0700) .sr),
    ([0b00000100, 0x0F, 0b01101111], .xorc (.imm8 0x0F) .tp),
    ([0b00000000], .nop)] = true := by decide +kernel

/-- What R99 leaves unassigned in the special formats. -/
theorem test_decode_nothing : (([[0x0B], [0x16], [0x1B], [0x08, 0x2F], [0x08, 0x0F], [0x01, 0xA9], [0x06, 0xB7],
    [0x07, 0xC0], [0x11, 0x20], [0x11, 0xBF]] : List (List Byte)).all fun bs => decide (decode bs = .unassigned)) = true := by
  decide +kernel

/-- The words of spec/opcode_table.json as it numbers their bits (notes/assumptions/26.md): 11 D8 is `JSR @R0`. -/
theorem test_decode_table_word : decodeTableWord 16 0x11D8 = some (.jsrInd 0) := by decide +kernel

/-- The same word with the first byte in the lowest bits. -/
theorem test_decode_table_word_low_first : decodeTableWord 16 0xD811 = some (.jsrInd 0) := by decide +kernel

/-! ## Steps

The start state of 95_test_vectors.md: minimum mode, PC = H'1000, registers 0 but those listed, the code at PC. -/

/-- The state after reset with PC at H'1000. -/
def reset1000 : State := { State.reset with pc := 0x1000 }

/-- A start state: code at PC, registers, SR, bytes of memory. -/
def boot (base : State) (code : List Byte) (regs : List (Reg × Word)) (sr : Word) (mem : List (Addr × Byte)) : State :=
  ((mem.foldl (fun s p => s.supplyByte p.1 p.2) (regs.foldl (fun s p => s.setReg p.1 p.2) base)).setSr
    (Status.ofWord sr)).supplyCode 0 code

/-- The step goes on, to a state with the property. -/
def holds (s : State) (p : State → Bool) : Bool :=
  match step s with
  | .next t => p t
  | _ => false

/-- The step goes on, with PC, the registers, SR and the bytes of memory given. -/
def ends (s : State) (pc : Word) (regs : List (Reg × Word)) (sr : Word) (mem : List (Addr × Byte)) : Bool :=
  holds s fun t => t.pc == pc && t.sr.toWord == sr && regs.all (fun p => t.reg p.1 == p.2)
    && mem.all (fun p => t.byteAt p.1 == some p.2)

/-- The step is refused. -/
def refuses (s : State) (r : Refusal) : Bool :=
  match step s with
  | .refused q => q == r
  | _ => false

/-- 95_test_vectors.md L2-move-8 (R121, R70): MOV:G.W @(H'FFFE,R1),R0. -/
theorem test_move_8 : ends (boot reset1000 [0xF9, 0xFF, 0xFE, 0x80] [] 0x0700 [(0xFFFE, 0x00), (0xFFFF, 0xAA)])
    0x1004 [(0, 0x00AA)] 0x0700 [] = true := by decide +kernel

/-- 95_test_vectors.md L2-move-5 (R121, R70): MOV:G.W @R1+,R0. -/
theorem test_move_5 : ends (boot reset1000 [0xC9, 0x80] [(1, 0x2000)] 0x0700 [(0x2000, 0x80), (0x2001, 0x01)])
    0x1002 [(0, 0x8001), (1, 0x2002)] 0x0708 [] = true := by decide +kernel

/-- 95_test_vectors.md L2-move-14 (R122): MOV:G.W R0,@-R7. -/
theorem test_move_14 : ends (boot reset1000 [0xBF, 0x90] [(0, 0xBEEF), (7, 0xFE00)] 0x0700 [])
    0x1002 [(7, 0xFDFE)] 0x0708 [(0xFDFE, 0xBE), (0xFDFF, 0xEF)] = true := by decide +kernel

/-- 95_test_vectors.md L2-move-15 (R122): MOV:G.B R0,@R1. -/
theorem test_move_15 : ends (boot reset1000 [0xD1, 0x90] [(0, 0x1200), (1, 0x2000)] 0x0709 [(0x2000, 0x55)])
    0x1002 [] 0x0705 [(0x2000, 0x00)] = true := by decide +kernel

/-- 95_test_vectors.md L2-move-19 (R123): MOV:G.B #H'FF,@R1. -/
theorem test_move_19 : ends (boot reset1000 [0xD1, 0x06, 0xFF] [(1, 0x2000)] 0x0700 [])
    0x1003 [] 0x0708 [(0x2000, 0xFF)] = true := by decide +kernel

/-- 95_test_vectors.md L2-move-20 (R123): MOV:G.W #H'FF:8,@R1. -/
theorem test_move_20 : ends (boot reset1000 [0xD9, 0x06, 0xFF] [(1, 0x2000)] 0x0700 [])
    0x1003 [] 0x0708 [(0x2000, 0xFF), (0x2001, 0xFF)] = true := by decide +kernel

/-- 95_test_vectors.md L2-move-22 (R123): MOV:G.W #H'0000,@(H'0100,R2). -/
theorem test_move_22 : ends (boot reset1000 [0xFA, 0x01, 0x00, 0x07, 0x00, 0x00] [(2, 0x2000)] 0x0700 [(0x2100, 0xFF), (0x2101, 0xFF)])
    0x1006 [] 0x0704 [(0x2100, 0x00), (0x2101, 0x00)] = true := by decide +kernel

/-- 95_test_vectors.md L2-dec-15 (R98): the length does not depend on data: EA F8 + 2 + OP 07 + 2 = 6 bytes. -/
theorem test_dec_15 : ends (boot reset1000 [0xF9, 0x00, 0x10, 0x07, 0xAB, 0xCD] [(1, 0x2000)] 0x0700 [])
    0x1006 [] 0x0708 [(0x2010, 0xAB), (0x2011, 0xCD)] = true := by decide +kernel

/-- 95_test_vectors.md L2-move-32 (R130): LDM.W @SP+,(R0-R6). -/
theorem test_move_32 : ends (boot reset1000 [0x02, 0x7F] [(7, 0xFDF2)] 0x070F [(0xFDF2, 0x10), (0xFDF3, 0x00), (0xFDF4, 0x10), (0xFDF5, 0x01), (0xFDF6, 0x10), (0xFDF7, 0x02), (0xFDF8, 0x10), (0xFDF9, 0x03), (0xFDFA, 0x10), (0xFDFB, 0x04), (0xFDFC, 0x10), (0xFDFD, 0x05), (0xFDFE, 0x10), (0xFDFF, 0x06)])
    0x1002 [(0, 0x1000), (1, 0x1001), (2, 0x1002), (3, 0x1003), (4, 0x1004), (5, 0x1005), (6, 0x1006), (7, 0xFE00)] 0x070F [] = true := by decide +kernel

/-- 95_test_vectors.md L2-move-35 (R130): LDM.W @SP+,(). -/
theorem test_move_35 : ends (boot reset1000 [0x02, 0x00] [(7, 0xFE00)] 0x0700 [])
    0x1002 [] 0x0700 [] = true := by decide +kernel

/-- 95_test_vectors.md L2-move-33 (R131): STM.W (R0-R6),@-SP. -/
theorem test_move_33 : ends (boot reset1000 [0x12, 0x7F] [(0, 0x1000), (1, 0x1001), (2, 0x1002), (3, 0x1003), (4, 0x1004), (5, 0x1005), (6, 0x1006), (7, 0xFE00)] 0x0700 [])
    0x1002 [(7, 0xFDF2)] 0x0700 [(0xFDF2, 0x10), (0xFDF3, 0x00), (0xFDF4, 0x10), (0xFDF5, 0x01), (0xFDF6, 0x10), (0xFDF7, 0x02), (0xFDF8, 0x10), (0xFDF9, 0x03), (0xFDFA, 0x10), (0xFDFB, 0x04), (0xFDFC, 0x10), (0xFDFD, 0x05), (0xFDFE, 0x10), (0xFDFF, 0x06)] = true := by decide +kernel

/-- 95_test_vectors.md L2-move-39 (R132): XCH.W R3,R3. -/
theorem test_move_39 : ends (boot reset1000 [0xAB, 0x93] [(3, 0x1234)] 0x070F [])
    0x1002 [] 0x070F [] = true := by decide +kernel

/-- 95_test_vectors.md L2-move-40 (R132): XCH.W R7,R0. -/
theorem test_move_40 : ends (boot reset1000 [0xAF, 0x90] [(0, 0x2000), (7, 0xFE00)] 0x0700 [])
    0x1002 [(0, 0xFE00), (7, 0x2000)] 0x0700 [] = true := by decide +kernel

/-- 95_test_vectors.md L2-move-42 (R133): SWAP.B R0. -/
theorem test_move_42 : ends (boot reset1000 [0xA0, 0x10] [] 0x070B [])
    0x1002 [] 0x0705 [] = true := by decide +kernel

/-- 95_test_vectors.md L2-move-43 (R133): SWAP.B R0. -/
theorem test_move_43 : ends (boot reset1000 [0xA0, 0x10] [(0, 0x8080)] 0x0700 [])
    0x1002 [] 0x0708 [] = true := by decide +kernel

/-- 95_test_vectors.md L2-move-48 (R134): MOVTPE.B R2,@R1. -/
theorem test_move_48 : ends (boot reset1000 [0xD1, 0x00, 0x92] [(1, 0xFFC0), (2, 0x1280)] 0x0705 [])
    0x1003 [] 0x0705 [(0xFFC0, 0x80)] = true := by decide +kernel

/-- 95_test_vectors.md L2-move-49 (R135): MOVFPE.B @(2,R1),R0. -/
theorem test_move_49 : ends (boot reset1000 [0xE1, 0x02, 0x00, 0x80] [(0, 0x1100), (1, 0xFFC0)] 0x0708 [(0xFFC2, 0x00)])
    0x1004 [] 0x0708 [] = true := by decide +kernel

/-- 95_test_vectors.md L2-src-1 (R152, R70): ADD:G.B @R0,R1. -/
theorem test_src_1 : ends (boot reset1000 [0xD0, 0x21] [(0, 0x2000), (1, 0x12F0)] 0x0700 [(0x2000, 0x20)])
    0x1002 [(1, 0x1210)] 0x0701 [] = true := by decide +kernel

/-- 95_test_vectors.md L2-src-3 (R152, R62): ADD:G.W @H'10:8,R1. -/
theorem test_src_3 : ends (boot ({ reset1000 with br := 0xFE }) [0x0D, 0x10, 0x21] [(1, 0x7FFF)] 0x0700 [(0xFE10, 0x00), (0xFE11, 0x01)])
    0x1003 [(1, 0x8000)] 0x070A [] = true := by decide +kernel

/-- 95_test_vectors.md L2-arith-9 (R153): ADD:Q.B #1,R0. -/
theorem test_arith_9 : ends (boot reset1000 [0xA0, 0x08] [(0, 0x12FF)] 0x0700 [])
    0x1002 [(0, 0x1200)] 0x0705 [] = true := by decide +kernel

/-- 95_test_vectors.md L2-arith-15 (R153): ADD:Q.W #1,@-R1. -/
theorem test_arith_15 : ends (boot reset1000 [0xB9, 0x08] [(1, 0x2002)] 0x0700 [(0x2000, 0xFF), (0x2001, 0xFF)])
    0x1002 [(1, 0x2000)] 0x0705 [(0x2000, 0x00), (0x2001, 0x00)] = true := by decide +kernel

/-- 95_test_vectors.md L2-arith-10 (R153): ADD:Q.W #2,R0. -/
theorem test_arith_10 : ends (boot reset1000 [0xA8, 0x09] [(0, 0x7FFF)] 0x0700 [])
    0x1002 [(0, 0x8001)] 0x070A [] = true := by decide +kernel

/-- 95_test_vectors.md L2-arith-11 (R153): ADD:Q.W #-1,R0. -/
theorem test_arith_11 : ends (boot reset1000 [0xA8, 0x0C] [] 0x0700 [])
    0x1002 [(0, 0xFFFF)] 0x0708 [] = true := by decide +kernel

/-- 95_test_vectors.md L2-arith-13 (R153): ADD:Q.W #-1,R0. -/
theorem test_arith_13 : ends (boot reset1000 [0xA8, 0x0C] [(0, 0x8000)] 0x0700 [])
    0x1002 [(0, 0x7FFF)] 0x0703 [] = true := by decide +kernel

/-- 95_test_vectors.md L2-arith-12 (R153): ADD:Q.W #-2,R0. -/
theorem test_arith_12 : ends (boot reset1000 [0xA8, 0x0D] [(0, 0x0001)] 0x0700 [])
    0x1002 [(0, 0xFFFF)] 0x0708 [] = true := by decide +kernel

/-- 95_test_vectors.md L2-arith-17 (R154): ADDS.W #H'0002,R7. -/
theorem test_arith_17 : ends (boot reset1000 [0x0C, 0x00, 0x02, 0x2F] [(7, 0xFDFE)] 0x070F [])
    0x1004 [(7, 0xFE00)] 0x070F [] = true := by decide +kernel

/-- 95_test_vectors.md L2-arith-18 (R154): ADDS.B #H'7F,R0. -/
theorem test_arith_18 : ends (boot reset1000 [0x04, 0x7F, 0x28] [(0, 0xFFFF)] 0x0700 [])
    0x1003 [(0, 0x007E)] 0x0700 [] = true := by decide +kernel

/-- 95_test_vectors.md L2-arith-22 (R155): ADDX.W R1,R0. -/
theorem test_arith_22 : ends (boot reset1000 [0xA9, 0xA0] [] 0x0700 [])
    0x1002 [] 0x0700 [] = true := by decide +kernel

/-- 95_test_vectors.md L2-arith-24 (R155): ADDX.B #H'00,R0. -/
theorem test_arith_24 : ends (boot reset1000 [0x04, 0x00, 0xA0] [(0, 0x007F)] 0x0705 [])
    0x1003 [(0, 0x0080)] 0x070A [] = true := by decide +kernel

/-- 95_test_vectors.md L2-arith-26 (R156): DADD.B R1,R0. -/
theorem test_arith_26 : ends (boot reset1000 [0xA1, 0x00, 0xA0] [(0, 0x1299), (1, 0x0099)] 0x0701 [])
    0x1003 [] 0x0701 [] = true := by decide +kernel

/-- 95_test_vectors.md L2-arith-27 (R156): DADD.B R1,R0. -/
theorem test_arith_27 : ends (boot reset1000 [0xA1, 0x00, 0xA0] [] 0x0700 [])
    0x1003 [] 0x0700 [] = true := by decide +kernel

/-- 95_test_vectors.md L2-arith-31 (R157): SUB.B #H'01,R0. -/
theorem test_arith_31 : ends (boot reset1000 [0x04, 0x01, 0x30] [(0, 0x0080)] 0x0700 [])
    0x1003 [(0, 0x007F)] 0x0702 [] = true := by decide +kernel

/-- 95_test_vectors.md L2-arith-32 (R157): SUB.B #H'01,R0. -/
theorem test_arith_32 : ends (boot reset1000 [0x04, 0x01, 0x30] [] 0x0700 [])
    0x1003 [(0, 0x00FF)] 0x0709 [] = true := by decide +kernel

/-- 95_test_vectors.md L2-arith-35 (R158): SUBS.W #H'0004,R7. -/
theorem test_arith_35 : ends (boot reset1000 [0x0C, 0x00, 0x04, 0x3F] [(7, 0xFE00)] 0x070F [])
    0x1004 [(7, 0xFDFC)] 0x070F [] = true := by decide +kernel

/-- 95_test_vectors.md L2-arith-36 (R158): SUBS.B #H'FF,R0. -/
theorem test_arith_36 : ends (boot reset1000 [0x04, 0xFF, 0x38] [] 0x0700 [])
    0x1003 [(0, 0x0001)] 0x0700 [] = true := by decide +kernel

/-- 95_test_vectors.md L2-arith-39 (R159): SUBX.W R1,R0. -/
theorem test_arith_39 : ends (boot reset1000 [0xA9, 0xB0] [(0, 0x0001)] 0x0701 [])
    0x1002 [(0, 0x0000)] 0x0700 [] = true := by decide +kernel

/-- 95_test_vectors.md L2-arith-40 (R159): SUBX.B #H'7F,R0. -/
theorem test_arith_40 : ends (boot reset1000 [0x04, 0x7F, 0xB0] [(0, 0x0080)] 0x0701 [])
    0x1003 [(0, 0x0000)] 0x0702 [] = true := by decide +kernel

/-- 95_test_vectors.md L2-arith-41 (R160): DSUB.B R1,R0. -/
theorem test_arith_41 : ends (boot reset1000 [0xA1, 0x00, 0xB0] [] 0x0705 [])
    0x1003 [(0, 0x0099)] 0x0701 [] = true := by decide +kernel

/-- 95_test_vectors.md L2-arith-42 (R160): DSUB.B R1,R0. -/
theorem test_arith_42 : ends (boot reset1000 [0xA1, 0x00, 0xB0] [(0, 0x0050), (1, 0x0050)] 0x0704 [])
    0x1003 [(0, 0x0000)] 0x0704 [] = true := by decide +kernel

/-- 95_test_vectors.md L2-arith-44 (R161): MULXU.B R1,R0. -/
theorem test_arith_44 : ends (boot reset1000 [0xA1, 0xA8] [(0, 0xAAFF), (1, 0xBBFF)] 0x0703 [])
    0x1002 [(0, 0xFE01)] 0x0708 [] = true := by decide +kernel

/-- 95_test_vectors.md L2-arith-47 (R161): MULXU.W R1,R2. -/
theorem test_arith_47 : ends (boot reset1000 [0xA9, 0xAA] [(1, 0xFFFF), (2, 0x5555), (3, 0xFFFF)] 0x0700 [])
    0x1002 [(2, 0xFFFE), (3, 0x0001)] 0x0708 [] = true := by decide +kernel

/-- 95_test_vectors.md L2-arith-50 (R162): DIVXU.B R1,R0. -/
theorem test_arith_50 : ends (boot reset1000 [0xA1, 0xB8] [(0, 0xFEFF), (1, 0x00FF)] 0x0700 [])
    0x1002 [] 0x0708 [] = true := by decide +kernel

/-- 95_test_vectors.md L2-arith-58 (R162, R303): DIVXU.B R1,R0. -/
theorem test_arith_58 : ends (boot reset1000 [0xA1, 0xB8] [(0, 0x1234), (7, 0xFE00)] 0x070A [(0x0006, 0x30), (0x0007, 0x00)])
    0x3000 [(7, 0xFDFC)] 0x070A [(0xFDFC, 0x07), (0xFDFD, 0x0A), (0xFDFE, 0x10), (0xFDFF, 0x02)] = true := by decide +kernel

/-- 95_test_vectors.md L2-arith-61 (R163): CMP:G.B R1,R0. -/
theorem test_arith_61 : ends (boot reset1000 [0xA1, 0x70] [(0, 0x0080), (1, 0x007F)] 0x0700 [])
    0x1002 [] 0x0702 [] = true := by decide +kernel

/-- 95_test_vectors.md L2-arith-64 (R163): CMP:G.B @R2+,R0. -/
theorem test_arith_64 : ends (boot reset1000 [0xC2, 0x70] [(0, 0x0041), (2, 0x2000)] 0x0700 [(0x2000, 0x41)])
    0x1002 [(2, 0x2001)] 0x0704 [] = true := by decide +kernel

/-- 95_test_vectors.md L2-arith-66 (R164): CMP:G.B #H'FF,@H'2000:16. -/
theorem test_arith_66 : ends (boot reset1000 [0x15, 0x20, 0x00, 0x04, 0xFF] [] 0x0700 [(0x2000, 0x00)])
    0x1005 [] 0x0701 [] = true := by decide +kernel

/-- 95_test_vectors.md L2-arith-65 (R164): CMP:G.W #H'1234,@(H'0100,R2). -/
theorem test_arith_65 : ends (boot reset1000 [0xFA, 0x01, 0x00, 0x05, 0x12, 0x34] [(2, 0x2000)] 0x0700 [(0x2100, 0x12), (0x2101, 0x35)])
    0x1006 [] 0x0700 [] = true := by decide +kernel

/-- 95_test_vectors.md L2-arith-71 (R167): EXTS.B R0. -/
theorem test_arith_71 : ends (boot reset1000 [0xA0, 0x11] [(0, 0xFF7F)] 0x070F [])
    0x1002 [(0, 0x007F)] 0x0700 [] = true := by decide +kernel

/-- 95_test_vectors.md L2-arith-72 (R167): EXTS.B R0. -/
theorem test_arith_72 : ends (boot reset1000 [0xA0, 0x11] [(0, 0xFF00)] 0x070B [])
    0x1002 [(0, 0x0000)] 0x0704 [] = true := by decide +kernel

/-- 95_test_vectors.md L2-arith-73 (R168): EXTU.B R0. -/
theorem test_arith_73 : ends (boot reset1000 [0xA0, 0x12] [(0, 0xFFFF)] 0x070F [])
    0x1002 [(0, 0x00FF)] 0x0700 [] = true := by decide +kernel

/-- 95_test_vectors.md L2-arith-74 (R168): EXTU.B R0. -/
theorem test_arith_74 : ends (boot reset1000 [0xA0, 0x12] [(0, 0xFF00)] 0x070B [])
    0x1002 [(0, 0x0000)] 0x0704 [] = true := by decide +kernel

/-- 95_test_vectors.md L2-arith-76 (R169): TST.B R0. -/
theorem test_arith_76 : ends (boot reset1000 [0xA0, 0x16] [(0, 0x0080)] 0x0707 [])
    0x1002 [] 0x0708 [] = true := by decide +kernel

/-- 95_test_vectors.md L2-arith-77 (R169): TST.W @H'F000:16. -/
theorem test_arith_77 : ends (boot reset1000 [0x1D, 0xF0, 0x00, 0x16] [] 0x070B [(0xF000, 0x00), (0xF001, 0x00)])
    0x1004 [] 0x0704 [] = true := by decide +kernel

/-- 95_test_vectors.md L2-arith-79 (R170): NEG.W R0. -/
theorem test_arith_79 : ends (boot reset1000 [0xA8, 0x14] [(0, 0x0001)] 0x0700 [])
    0x1002 [(0, 0xFFFF)] 0x0709 [] = true := by decide +kernel

/-- 95_test_vectors.md L2-arith-78 (R170): NEG.B R0. -/
theorem test_arith_78 : ends (boot reset1000 [0xA0, 0x14] [(0, 0x1200)] 0x070B [])
    0x1002 [] 0x0704 [] = true := by decide +kernel

/-- 95_test_vectors.md L2-arith-82 (R171): CLR.B R5. -/
theorem test_arith_82 : ends (boot reset1000 [0xA5, 0x13] [(5, 0xFFFF)] 0x070B [])
    0x1002 [(5, 0xFF00)] 0x0704 [] = true := by decide +kernel

/-- 95_test_vectors.md L2-arith-83 (R171): CLR.W @-R7. -/
theorem test_arith_83 : ends (boot reset1000 [0xBF, 0x13] [(7, 0xFE00)] 0x0700 [(0xFDFE, 0xFF), (0xFDFF, 0xFF)])
    0x1002 [(7, 0xFDFE)] 0x0704 [(0xFDFE, 0x00), (0xFDFF, 0x00)] = true := by decide +kernel

/-- 95_test_vectors.md L2-arith-84 (R172): TAS.B R0. -/
theorem test_arith_84 : ends (boot reset1000 [0xA0, 0x17] [(0, 0x1200)] 0x0703 [])
    0x1002 [(0, 0x1280)] 0x0704 [] = true := by decide +kernel

/-- 95_test_vectors.md L2-shift-1 (R191): SHAL.W R0. -/
theorem test_shift_1 : ends (boot reset1000 [0xA8, 0x18] [(0, 0x4000)] 0x0700 [])
    0x1002 [(0, 0x8000)] 0x070A [] = true := by decide +kernel

/-- 95_test_vectors.md L2-shift-2 (R191): SHAL.W R0. -/
theorem test_shift_2 : ends (boot reset1000 [0xA8, 0x18] [(0, 0xC000)] 0x0700 [])
    0x1002 [(0, 0x8000)] 0x0709 [] = true := by decide +kernel

/-- 95_test_vectors.md L2-shift-4 (R192): SHAR.W R0. -/
theorem test_shift_4 : ends (boot reset1000 [0xA8, 0x19] [(0, 0x8001)] 0x0702 [])
    0x1002 [(0, 0xC000)] 0x0709 [] = true := by decide +kernel

/-- 95_test_vectors.md L2-shift-5 (R192): SHAR.B R0. -/
theorem test_shift_5 : ends (boot reset1000 [0xA0, 0x19] [(0, 0x00FF)] 0x0700 [])
    0x1002 [] 0x0709 [] = true := by decide +kernel

/-- 95_test_vectors.md L2-shift-6 (R193): SHLL.B R0. -/
theorem test_shift_6 : ends (boot reset1000 [0xA0, 0x1A] [(0, 0x0040)] 0x0700 [])
    0x1002 [(0, 0x0080)] 0x0708 [] = true := by decide +kernel

/-- 95_test_vectors.md L2-shift-7 (R193): SHLL.W R0. -/
theorem test_shift_7 : ends (boot reset1000 [0xA8, 0x1A] [(0, 0x8000)] 0x0700 [])
    0x1002 [(0, 0x0000)] 0x0705 [] = true := by decide +kernel

/-- 95_test_vectors.md L2-shift-8 (R194): SHLR.W R0. -/
theorem test_shift_8 : ends (boot reset1000 [0xA8, 0x1B] [(0, 0x8000)] 0x0708 [])
    0x1002 [(0, 0x4000)] 0x0700 [] = true := by decide +kernel

/-- 95_test_vectors.md L2-shift-9 (R194): SHLR.B R0. -/
theorem test_shift_9 : ends (boot reset1000 [0xA0, 0x1B] [(0, 0x0001)] 0x0700 [])
    0x1002 [(0, 0x0000)] 0x0705 [] = true := by decide +kernel

/-- 95_test_vectors.md L2-shift-10 (R195): ROTL.W R0. -/
theorem test_shift_10 : ends (boot reset1000 [0xA8, 0x1C] [(0, 0x8000)] 0x0700 [])
    0x1002 [(0, 0x0001)] 0x0701 [] = true := by decide +kernel

/-- 95_test_vectors.md L2-shift-11 (R195): ROTL.B R0. -/
theorem test_shift_11 : ends (boot reset1000 [0xA0, 0x1C] [] 0x0701 [])
    0x1002 [] 0x0704 [] = true := by decide +kernel

/-- 95_test_vectors.md L2-shift-12 (R196): ROTR.W R0. -/
theorem test_shift_12 : ends (boot reset1000 [0xA8, 0x1D] [(0, 0x0001)] 0x0700 [])
    0x1002 [(0, 0x8000)] 0x0709 [] = true := by decide +kernel

/-- 95_test_vectors.md L2-shift-13 (R196): ROTR.B @R1. -/
theorem test_shift_13 : ends (boot reset1000 [0xD1, 0x1D] [(1, 0x2000)] 0x0700 [(0x2000, 0x02)])
    0x1002 [] 0x0700 [(0x2000, 0x01)] = true := by decide +kernel

/-- 95_test_vectors.md L2-shift-14 (R197): ROTXL.B R0. -/
theorem test_shift_14 : ends (boot reset1000 [0xA0, 0x1E] [] 0x0701 [])
    0x1002 [(0, 0x0001)] 0x0700 [] = true := by decide +kernel

/-- 95_test_vectors.md L2-shift-15 (R197): ROTXL.W R0. -/
theorem test_shift_15 : ends (boot reset1000 [0xA8, 0x1E] [(0, 0x8000)] 0x0701 [])
    0x1002 [(0, 0x0001)] 0x0701 [] = true := by decide +kernel

/-- 95_test_vectors.md L2-shift-17 (R198): ROTXR.B R0. -/
theorem test_shift_17 : ends (boot reset1000 [0xA0, 0x1F] [(0, 0x0001)] 0x0700 [])
    0x1002 [(0, 0x0000)] 0x0705 [] = true := by decide +kernel

/-- 95_test_vectors.md L2-shift-18 (R198): ROTXR.B R0. -/
theorem test_shift_18 : ends (boot reset1000 [0xA0, 0x1F] [] 0x0701 [])
    0x1002 [(0, 0x0080)] 0x0708 [] = true := by decide +kernel

/-- 95_test_vectors.md L2-logic-1 (R206): AND.W #H'00FF,R0. -/
theorem test_logic_1 : ends (boot reset1000 [0x0C, 0x00, 0xFF, 0x50] [(0, 0xFF00)] 0x070B [])
    0x1004 [(0, 0x0000)] 0x0705 [] = true := by decide +kernel

/-- 95_test_vectors.md L2-logic-2 (R206): AND.B R1,R0. -/
theorem test_logic_2 : ends (boot reset1000 [0xA1, 0x50] [(0, 0xFFF0), (1, 0x00CC)] 0x0701 [])
    0x1002 [(0, 0xFFC0)] 0x0709 [] = true := by decide +kernel

/-- 95_test_vectors.md L2-logic-4 (R207): OR.B #H'80,R0. -/
theorem test_logic_4 : ends (boot reset1000 [0x04, 0x80, 0x40] [(0, 0x1201)] 0x0700 [])
    0x1003 [(0, 0x1281)] 0x0708 [] = true := by decide +kernel

/-- 95_test_vectors.md L2-logic-5 (R207): OR.W R1,R0. -/
theorem test_logic_5 : ends (boot reset1000 [0xA9, 0x40] [] 0x070B [])
    0x1002 [] 0x0705 [] = true := by decide +kernel

/-- 95_test_vectors.md L2-logic-6 (R208): XOR.B #H'FF,R0. -/
theorem test_logic_6 : ends (boot reset1000 [0x04, 0xFF, 0x60] [(0, 0x12FF)] 0x0701 [])
    0x1003 [(0, 0x1200)] 0x0705 [] = true := by decide +kernel

/-- 95_test_vectors.md L2-logic-7 (R208): XOR.W @R1+,R0. -/
theorem test_logic_7 : ends (boot reset1000 [0xC9, 0x60] [(0, 0x00FF), (1, 0x2000)] 0x0700 [(0x2000, 0xFF), (0x2001, 0x00)])
    0x1002 [(0, 0xFFFF), (1, 0x2002)] 0x0708 [] = true := by decide +kernel

/-- 95_test_vectors.md L2-logic-8 (R209): NOT.W R0. -/
theorem test_logic_8 : ends (boot reset1000 [0xA8, 0x15] [] 0x0703 [])
    0x1002 [(0, 0xFFFF)] 0x0709 [] = true := by decide +kernel

/-- 95_test_vectors.md L2-logic-9 (R209): NOT.B @R1. -/
theorem test_logic_9 : ends (boot reset1000 [0xD1, 0x15] [(1, 0x2000)] 0x0700 [(0x2000, 0x0F)])
    0x1002 [] 0x0708 [(0x2000, 0xF0)] = true := by decide +kernel

/-- 95_test_vectors.md L2-bit-1 (R216): BSET.B #0,R0. -/
theorem test_bit_1 : ends (boot reset1000 [0xA0, 0xC0] [(0, 0x1200)] 0x070B [])
    0x1002 [(0, 0x1201)] 0x070F [] = true := by decide +kernel

/-- 95_test_vectors.md L2-bit-2 (R216): BSET.B #0,R0. -/
theorem test_bit_2 : ends (boot reset1000 [0xA0, 0xC0] [(0, 0x1201)] 0x070F [])
    0x1002 [] 0x070B [] = true := by decide +kernel

/-- 95_test_vectors.md L2-bit-4 (R216, R215): BSET.W R1,R1. -/
theorem test_bit_4 : ends (boot reset1000 [0xA9, 0x49] [(1, 0x0004)] 0x0700 [])
    0x1002 [(1, 0x0014)] 0x0704 [] = true := by decide +kernel

/-- 95_test_vectors.md L2-bit-5 (R216, R215): BSET.B R2,R0. -/
theorem test_bit_5 : ends (boot reset1000 [0xA0, 0x4A] [(2, 0xFFF3)] 0x0700 [])
    0x1002 [(0, 0x0008)] 0x0704 [] = true := by decide +kernel

/-- 95_test_vectors.md L2-bit-8 (R217): BCLR.W #15,R0. -/
theorem test_bit_8 : ends (boot reset1000 [0xA8, 0xDF] [(0, 0xFFFF)] 0x0704 [])
    0x1002 [(0, 0x7FFF)] 0x0700 [] = true := by decide +kernel

/-- 95_test_vectors.md L2-bit-9 (R217): BCLR.B #7,@-R1. -/
theorem test_bit_9 : ends (boot reset1000 [0xB1, 0xD7] [(1, 0x2001)] 0x0700 [(0x2000, 0x7F)])
    0x1002 [(1, 0x2000)] 0x0704 [(0x2000, 0x7F)] = true := by decide +kernel

/-- 95_test_vectors.md L2-bit-10 (R217): BCLR.W R3,@R1. -/
theorem test_bit_10 : ends (boot reset1000 [0xD9, 0x5B] [(1, 0x2000), (3, 0x0008)] 0x0700 [(0x2000, 0xFF), (0x2001, 0xFF)])
    0x1002 [] 0x0700 [(0x2000, 0xFE), (0x2001, 0xFF)] = true := by decide +kernel

/-- 95_test_vectors.md L2-bit-14 (R219): BNOT.W #8,R0. -/
theorem test_bit_14 : ends (boot reset1000 [0xA8, 0xE8] [(0, 0x0100)] 0x0700 [])
    0x1002 [(0, 0x0000)] 0x0700 [] = true := by decide +kernel

/-- 95_test_vectors.md L2-bit-15 (R219): BNOT.B R1,@R2. -/
theorem test_bit_15 : ends (boot reset1000 [0xD2, 0x69] [(1, 0x0007), (2, 0x2000)] 0x0700 [(0x2000, 0x00)])
    0x1002 [] 0x0704 [(0x2000, 0x80)] = true := by decide +kernel

/-- 95_test_vectors.md L2-bit-11 (R218): BTST.B #3,@R4. -/
theorem test_bit_11 : ends (boot reset1000 [0xD4, 0xF3] [(4, 0x2000)] 0x070F [(0x2000, 0x08)])
    0x1002 [] 0x070B [] = true := by decide +kernel

/-- 95_test_vectors.md L2-bit-12 (R218): BTST.B #3,@R4. -/
theorem test_bit_12 : ends (boot reset1000 [0xD4, 0xF3] [(4, 0x2000)] 0x0700 [(0x2000, 0xF7)])
    0x1002 [] 0x0704 [] = true := by decide +kernel

/-- 95_test_vectors.md L2-bit-13 (R218): BTST.W R2,R0. -/
theorem test_bit_13 : ends (boot reset1000 [0xA8, 0x7A] [(0, 0x0100), (2, 0x0008)] 0x0700 [])
    0x1002 [] 0x0700 [] = true := by decide +kernel

/-- 95_test_vectors.md L2-move-24 (R124): MOV:E.B #H'00,R2. -/
theorem test_move_24 : ends (boot reset1000 [0x52, 0x00] [(2, 0xFFFF)] 0x0701 [])
    0x1002 [(2, 0xFF00)] 0x0705 [] = true := by decide +kernel

/-- 95_test_vectors.md L2-dec-16 (R101): MOV:E.B #H'80,R1 and its general twin MOV:G.B #H'80,R1. -/
theorem test_dec_16 : ends (boot reset1000 [0x51, 0x80] [(1, 0x1234)] 0x0700 [])
    0x1002 [(1, 0x1280)] 0x0708 [] = true := by decide +kernel

/-- 95_test_vectors.md L2-move-25 (R127): MOV:I.W #H'0000,R2. -/
theorem test_move_25 : ends (boot reset1000 [0x5A, 0x00, 0x00] [(2, 0xFFFF)] 0x070A [])
    0x1003 [(2, 0x0000)] 0x0704 [] = true := by decide +kernel

/-- 95_test_vectors.md L2-move-29 (R128): MOV:L.W @H'C0:8,R3. -/
theorem test_move_29 : ends (boot ({ reset1000 with br := 0xFF }) [0x6B, 0xC0] [] 0x0700 [(0xFFC0, 0x80), (0xFFC1, 0x00)])
    0x1002 [(3, 0x8000)] 0x0708 [] = true := by decide +kernel

/-- 95_test_vectors.md L2-move-31 (R129): MOV:S.B R1,@H'80:8. -/
theorem test_move_31 : ends (boot ({ reset1000 with br := 0xFE }) [0x71, 0x80] [(1, 0x12FF)] 0x0700 [])
    0x1002 [] 0x0708 [(0xFE80, 0xFF)] = true := by decide +kernel

/-- 95_test_vectors.md L2-move-26 (R125): MOV:F.B @(-1,R6),R0. -/
theorem test_move_26 : ends (boot reset1000 [0x80, 0xFF] [(0, 0x1100), (6, 0xFE10)] 0x0700 [(0xFE0F, 0x80)])
    0x1002 [(0, 0x1180)] 0x0708 [] = true := by decide +kernel

/-- 95_test_vectors.md L2-move-28 (R126): MOV:F.W R6,@(-2,R6). -/
theorem test_move_28 : ends (boot reset1000 [0x9E, 0xFE] [(6, 0xFE10)] 0x0700 [])
    0x1002 [] 0x0708 [(0xFE0E, 0xFE), (0xFE0F, 0x10)] = true := by decide +kernel

/-- 95_test_vectors.md L2-arith-69 (R165): CMP:E.B #H'80,R0. -/
theorem test_arith_69 : ends (boot reset1000 [0x40, 0x80] [(0, 0xFF7F)] 0x0700 [])
    0x1002 [] 0x070B [] = true := by decide +kernel

/-- 95_test_vectors.md L2-arith-70 (R166): CMP:I.W #H'0000,R7. -/
theorem test_arith_70 : ends (boot reset1000 [0x4F, 0x00, 0x00] [(7, 0xFE00)] 0x0700 [])
    0x1003 [] 0x0708 [] = true := by decide +kernel

/-- 95_test_vectors.md L2-branch-2 (R226): BRA -128. -/
theorem test_branch_2 : ends (boot reset1000 [0x20, 0x80] [] 0x0700 [])
    0x0F82 [] 0x0700 [] = true := by decide +kernel

/-- 95_test_vectors.md L2-branch-3 (R226, R26): BRA +4 at H'FFFE. -/
theorem test_branch_3 : ends (boot ({ reset1000 with pc := 0xFFFE }) [0x20, 0x04] [] 0x0700 [])
    0x0004 [] 0x0700 [] = true := by decide +kernel

/-- 95_test_vectors.md L2-branch-7 (R231): BLS +2, Z = 1. -/
theorem test_branch_7 : ends (boot reset1000 [0x23, 0x02] [] 0x0704 [])
    0x1004 [] 0x0704 [] = true := by decide +kernel

/-- 95_test_vectors.md L2-branch-8 (R231): BLS +2, C = 0 and Z = 0. -/
theorem test_branch_8 : ends (boot reset1000 [0x23, 0x02] [] 0x0700 [])
    0x1002 [] 0x0700 [] = true := by decide +kernel

/-- 95_test_vectors.md L2-branch-4 (R227): BRA d:16 = H'8000. -/
theorem test_branch_4 : ends (boot reset1000 [0x30, 0x80, 0x00] [] 0x0700 [])
    0x9003 [] 0x0700 [] = true := by decide +kernel

/-- 95_test_vectors.md L2-branch-6 (R229): BRN d:16. -/
theorem test_branch_6 : ends (boot reset1000 [0x31, 0x12, 0x34] [] 0x0700 [])
    0x1003 [] 0x0700 [] = true := by decide +kernel

/-- 95_test_vectors.md L2-branch-5 (R227): BHI d:16 = H'0100, C = 1. -/
theorem test_branch_5 : ends (boot reset1000 [0x32, 0x01, 0x00] [] 0x0701 [])
    0x1003 [] 0x0701 [] = true := by decide +kernel

/-- 95_test_vectors.md L2-branch-15 (R244): JMP @R3. -/
theorem test_branch_15 : ends (boot reset1000 [0x11, 0xD3] [(3, 0x2001)] 0x0700 [])
    0x2001 [] 0x0700 [] = true := by decide +kernel

/-- 95_test_vectors.md L2-branch-14 (R244): JMP @H'2000:16. -/
theorem test_branch_14 : ends (boot reset1000 [0x10, 0x20, 0x00] [] 0x0700 [])
    0x2000 [] 0x0700 [] = true := by decide +kernel

/-- 95_test_vectors.md L2-branch-16 (R244): JMP @(-4,R2). -/
theorem test_branch_16 : ends (boot reset1000 [0x11, 0xE2, 0xFC] [(2, 0x2000)] 0x0700 [])
    0x1FFC [] 0x0700 [] = true := by decide +kernel

/-- 95_test_vectors.md L2-branch-17 (R244): JMP @(H'F000,R2). -/
theorem test_branch_17 : ends (boot reset1000 [0x11, 0xF2, 0xF0, 0x00] [(2, 0x2000)] 0x0700 [])
    0x1000 [] 0x0700 [] = true := by decide +kernel

/-- 95_test_vectors.md L2-branch-18 (R246): BSR d:16 = H'FFFD. -/
theorem test_branch_18 : ends (boot reset1000 [0x1E, 0xFF, 0xFD] [(7, 0xFE00)] 0x0700 [])
    0x1000 [(7, 0xFDFE)] 0x0700 [(0xFDFE, 0x10), (0xFDFF, 0x03)] = true := by decide +kernel

/-- 95_test_vectors.md L2-src-5 (R247): JSR @R0 (the timing examples' H'11D8). -/
theorem test_src_5 : ends (boot ({ reset1000 with pc := 0xFC01 }) [0x11, 0xD8] [(0, 0x4000), (7, 0xFE00)] 0x0700 [])
    0x4000 [(7, 0xFDFE)] 0x0700 [(0xFDFE, 0xFC), (0xFDFF, 0x03)] = true := by decide +kernel

/-- 95_test_vectors.md L2-branch-20 (R247): JSR @R0. -/
theorem test_branch_20 : ends (boot reset1000 [0x11, 0xD8] [(0, 0x4000), (7, 0xFE00)] 0x0700 [])
    0x4000 [(7, 0xFDFE)] 0x0700 [(0xFDFE, 0x10), (0xFDFF, 0x02)] = true := by decide +kernel

/-- 95_test_vectors.md L2-branch-21 (R247): JSR @(2,R1). -/
theorem test_branch_21 : ends (boot reset1000 [0x11, 0xE9, 0x02] [(1, 0x3000), (7, 0xFE00)] 0x0700 [])
    0x3002 [(7, 0xFDFE)] 0x0700 [(0xFDFE, 0x10), (0xFDFF, 0x03)] = true := by decide +kernel

/-- 95_test_vectors.md L2-branch-22 (R247): JSR @(H'0100,R1). -/
theorem test_branch_22 : ends (boot reset1000 [0x11, 0xF9, 0x01, 0x00] [(1, 0x3000), (7, 0xFE00)] 0x0700 [])
    0x3100 [(7, 0xFDFE)] 0x0700 [(0xFDFE, 0x10), (0xFDFF, 0x04)] = true := by decide +kernel

/-- 95_test_vectors.md L2-branch-24 (R249): RTS. -/
theorem test_branch_24 : ends (boot reset1000 [0x19] [(7, 0xFDFE)] 0x070F [(0xFDFE, 0x12), (0xFDFF, 0x34)])
    0x1234 [(7, 0xFE00)] 0x070F [] = true := by decide +kernel

/-- 95_test_vectors.md L2-branch-27 (R251): RTD #H'FE:8. -/
theorem test_branch_27 : ends (boot reset1000 [0x14, 0xFE] [(7, 0xFD00)] 0x0700 [(0xFD00, 0x20), (0xFD01, 0x00)])
    0x2000 [] 0x0700 [] = true := by decide +kernel

/-- 95_test_vectors.md L2-branch-28 (R251): RTD #1. -/
theorem test_branch_28 : ends (boot reset1000 [0x14, 0x01] [(7, 0xFD00)] 0x0700 [(0xFD00, 0x20), (0xFD01, 0x00)])
    0x2000 [(7, 0xFD03)] 0x0700 [] = true := by decide +kernel

/-- 95_test_vectors.md L2-branch-26 (R251): RTD #H'0100:16. -/
theorem test_branch_26 : ends (boot reset1000 [0x1C, 0x01, 0x00] [(7, 0xFD00)] 0x0700 [(0xFD00, 0x20), (0xFD01, 0x00)])
    0x2000 [(7, 0xFE02)] 0x0700 [] = true := by decide +kernel

/-- 95_test_vectors.md L2-branch-29 (R253): SCB/F R1,-7. -/
theorem test_branch_29 : ends (boot ({ reset1000 with pc := 0x1004 }) [0x01, 0xB9, 0xF9] [(1, 0xFFFF)] 0x0700 [])
    0x1000 [(1, 0xFFFE)] 0x0700 [] = true := by decide +kernel

/-- 95_test_vectors.md L2-branch-30 (R254): SCB/NE R1,-7, Z = 0. -/
theorem test_branch_30 : ends (boot ({ reset1000 with pc := 0x1004 }) [0x06, 0xB9, 0xF9] [(1, 0x0005)] 0x0700 [])
    0x1007 [] 0x0700 [] = true := by decide +kernel

/-- 95_test_vectors.md L2-branch-31 (R254): SCB/NE R1,-7, Z = 1. -/
theorem test_branch_31 : ends (boot ({ reset1000 with pc := 0x1004 }) [0x06, 0xB9, 0xF9] [(1, 0x0005)] 0x0704 [])
    0x1000 [(1, 0x0004)] 0x0704 [] = true := by decide +kernel

/-- 95_test_vectors.md L2-branch-33 (R255): SCB/EQ R1,-7, Z = 1. -/
theorem test_branch_33 : ends (boot ({ reset1000 with pc := 0x1004 }) [0x07, 0xB9, 0xF9] [(1, 0x0005)] 0x0704 [])
    0x1007 [] 0x0704 [] = true := by decide +kernel

/-- 95_test_vectors.md L2-branch-34 (R255): SCB/EQ R1,+4, Z = 0. -/
theorem test_branch_34 : ends (boot reset1000 [0x07, 0xB9, 0x04] [(1, 0x0005)] 0x070B [])
    0x1007 [(1, 0x0004)] 0x070B [] = true := by decide +kernel

/-- 95_test_vectors.md L2-branch-38 (R245): PJMP @H'021000:24. -/
theorem test_branch_38 : holds (boot ({ reset1000 with mode := .max, cp := 0x01 }) [0x13, 0x02, 0x10, 0x00] [] 0x0700 [])
    (fun t => t.pc == 0x1000 && t.cp == 0x02) = true := by decide +kernel

/-- 95_test_vectors.md L2-branch-39 (R245): PJMP @R2. -/
theorem test_branch_39 : holds (boot ({ reset1000 with mode := .max, cp := 0x01 }) [0x11, 0xC2] [(2, 0xAB03), (3, 0x4000)] 0x0700 [])
    (fun t => t.pc == 0x4000 && t.cp == 0x03) = true := by decide +kernel

/-- 95_test_vectors.md L2-branch-41 (R248): PJSR @H'021234:24. -/
theorem test_branch_41 : holds (boot ({ reset1000 with mode := .max, cp := 0x01 }) [0x03, 0x02, 0x12, 0x34] [(7, 0xFE00)] 0x0700 [])
    (fun t => t.pc == 0x1234 && t.cp == 0x02) = true := by decide +kernel

/-- 95_test_vectors.md L2-branch-42 (R248): PJSR @R4. -/
theorem test_branch_42 : holds (boot ({ reset1000 with mode := .max, cp := 0x01, tp := 0x0F }) [0x11, 0xCC] [(4, 0x0005), (5, 0x8000), (7, 0xFE00)] 0x0700 [])
    (fun t => t.pc == 0x8000 && t.cp == 0x05) = true := by decide +kernel

/-- 95_test_vectors.md L2-branch-43 (R250): PRTS. -/
theorem test_branch_43 : holds (boot ({ reset1000 with mode := .max, cp := 0x02 }) [0x11, 0x19] [(7, 0xFDFC)] 0x0700 [(0xFDFC, 0xAA), (0xFDFD, 0x01), (0xFDFE, 0x10), (0xFDFF, 0x04)])
    (fun t => t.pc == 0x1004 && t.cp == 0x01) = true := by decide +kernel

/-- 95_test_vectors.md L2-branch-44 (R252): PRTD #4. -/
theorem test_branch_44 : holds (boot ({ reset1000 with mode := .max, cp := 0x02 }) [0x11, 0x14, 0x04] [(7, 0xFDFC)] 0x0700 [(0xFDFC, 0x00), (0xFDFD, 0x01), (0xFDFE, 0x10), (0xFDFF, 0x04)])
    (fun t => t.pc == 0x1004 && t.cp == 0x01) = true := by decide +kernel

/-- 95_test_vectors.md L2-branch-45 (R252): PRTD #H'0010:16. -/
theorem test_branch_45 : holds (boot ({ reset1000 with mode := .max, cp := 0x02 }) [0x11, 0x1C, 0x00, 0x10] [(7, 0xFDFC)] 0x0700 [(0xFDFC, 0x00), (0xFDFD, 0x01), (0xFDFE, 0x10), (0xFDFF, 0x04)])
    (fun t => t.pc == 0x1004 && t.cp == 0x01) = true := by decide +kernel

/-- 95_test_vectors.md L2-sys-1 (R265, R297): TRAPA #0. -/
theorem test_sys_1 : ends (boot reset1000 [0x08, 0x10] [(7, 0xFE00)] 0x030F [(0x0020, 0x20), (0x0021, 0x00)])
    0x2000 [(7, 0xFDFC)] 0x030F [(0xFDFC, 0x03), (0xFDFD, 0x0F), (0xFDFE, 0x10), (0xFDFF, 0x02)] = true := by decide +kernel

/-- 95_test_vectors.md L2-sys-3 (R265): TRAPA #15. -/
theorem test_sys_3 : holds (boot ({ reset1000 with mode := .max, cp := 0x05 }) [0x08, 0x1F] [(7, 0xFE00)] 0x0700 [(0x007C, 0x00), (0x007D, 0x02), (0x007E, 0x30), (0x007F, 0x00)])
    (fun t => t.pc == 0x3000 && t.cp == 0x02) = true := by decide +kernel

/-- 95_test_vectors.md L2-sys-6 (R266): TRAP/VS, V = 0. -/
theorem test_sys_6 : ends (boot reset1000 [0x09] [(7, 0xFE00)] 0x070D [])
    0x1001 [] 0x070D [] = true := by decide +kernel

/-- 95_test_vectors.md L2-sys-7 (R266): TRAP/VS, V = 1. -/
theorem test_sys_7 : ends (boot reset1000 [0x09] [(7, 0xFE00)] 0x0702 [(0x0008, 0x21), (0x0009, 0x00)])
    0x2100 [(7, 0xFDFC)] 0x0702 [(0xFDFC, 0x07), (0xFDFD, 0x02), (0xFDFE, 0x10), (0xFDFF, 0x01)] = true := by decide +kernel

/-- 95_test_vectors.md L2-sys-11 (R267, R30): RTE with reserved bits set in the popped word. -/
theorem test_sys_11 : ends (boot reset1000 [0x0A] [(7, 0xFDFC)] 0x0700 [(0xFDFC, 0x7F), (0xFDFD, 0xFF), (0xFDFE, 0x12), (0xFDFF, 0x34)])
    0x1234 [(7, 0xFE00)] 0x070F [] = true := by decide +kernel

/-- 95_test_vectors.md L2-sys-12 (R267): RTE. -/
theorem test_sys_12 : holds (boot ({ reset1000 with mode := .max, cp := 0x02 }) [0x0A] [(7, 0xFDFA)] 0x0700 [(0xFDFA, 0x07), (0xFDFB, 0x00), (0xFDFC, 0xEE), (0xFDFD, 0x05), (0xFDFE, 0x10), (0xFDFF, 0x02)])
    (fun t => t.pc == 0x1002 && t.cp == 0x05) = true := by decide +kernel

/-- 95_test_vectors.md L2-sys-15 (R268): LINK FP,#4. -/
theorem test_sys_15 : ends (boot reset1000 [0x17, 0x04] [(6, 0xAAAA), (7, 0xFE00)] 0x0700 [])
    0x1002 [(6, 0xFDFE), (7, 0xFE02)] 0x0700 [(0xFDFE, 0xAA), (0xFDFF, 0xAA)] = true := by decide +kernel

/-- 95_test_vectors.md L2-sys-16 (R268): LINK FP,#-3. -/
theorem test_sys_16 : ends (boot reset1000 [0x17, 0xFD] [(6, 0xAAAA), (7, 0xFE00)] 0x0700 [])
    0x1002 [(6, 0xFDFE), (7, 0xFDFB)] 0x0700 [(0xFDFE, 0xAA), (0xFDFF, 0xAA)] = true := by decide +kernel

/-- 95_test_vectors.md L2-sys-14 (R268): LINK FP,#H'FFF0:16. -/
theorem test_sys_14 : ends (boot reset1000 [0x1F, 0xFF, 0xF0] [(6, 0xAAAA), (7, 0xFE00)] 0x0700 [])
    0x1003 [(6, 0xFDFE), (7, 0xFDEE)] 0x0700 [(0xFDFE, 0xAA), (0xFDFF, 0xAA)] = true := by decide +kernel

/-- 95_test_vectors.md L2-sys-17 (R269): UNLK FP. -/
theorem test_sys_17 : ends (boot reset1000 [0x0F] [(6, 0xFDF0), (7, 0xFD00)] 0x0700 [(0xFDF0, 0xAA), (0xFDF1, 0xAA)])
    0x1001 [(6, 0xAAAA), (7, 0xFDF2)] 0x0700 [] = true := by decide +kernel

/-- 95_test_vectors.md L2-sys-19 (R270): SLEEP. -/
theorem test_sys_19 : ends (boot reset1000 [0x1A] [] 0x070F [])
    0x1001 [] 0x070F [] = true := by decide +kernel

/-- 95_test_vectors.md L2-sys-25 (R271): LDC.W @R7+,SR. -/
theorem test_sys_25 : ends (boot reset1000 [0xCF, 0x88] [(7, 0xFDFE)] 0x0700 [(0xFDFE, 0x03), (0xFDFF, 0x04)])
    0x1002 [(7, 0xFE00)] 0x0304 [] = true := by decide +kernel

/-- 95_test_vectors.md L2-sys-26 (R271): LDC.B @R1,EP. -/
theorem test_sys_26 : holds (boot reset1000 [0xD1, 0x8C] [(1, 0x2000)] 0x0700 [(0x2000, 0x12)])
    (fun t => t.pc == 0x1002 && t.ep == 0x12) = true := by decide +kernel

/-- 95_test_vectors.md L2-sys-33 (R272): STC.W SR,@-R7. -/
theorem test_sys_33 : ends (boot reset1000 [0xBF, 0x98] [(7, 0xFE00)] 0x0305 [])
    0x1002 [(7, 0xFDFE)] 0x0305 [(0xFDFE, 0x03), (0xFDFF, 0x05)] = true := by decide +kernel

/-- 95_test_vectors.md L2-sys-34 (R272): STC.B CCR,R0. -/
theorem test_sys_34 : ends (boot reset1000 [0xA0, 0x99] [(0, 0xAB00)] 0x070A [])
    0x1002 [(0, 0xAB0A)] 0x070A [] = true := by decide +kernel

/-- 95_test_vectors.md L2-sys-39 (R273): ANDC.B #H'FE,CCR. -/
theorem test_sys_39 : ends (boot reset1000 [0x04, 0xFE, 0x59] [] 0x070F [])
    0x1003 [] 0x070E [] = true := by decide +kernel

/-- 95_test_vectors.md L2-sys-40 (R273): ANDC.W #H'F8FF,SR. -/
theorem test_sys_40 : ends (boot reset1000 [0x0C, 0xF8, 0xFF, 0x58] [] 0x070A [])
    0x1004 [] 0x000A [] = true := by decide +kernel

/-- 95_test_vectors.md L2-bit-16 (R278, R89): the same OP byte 49 after an immediate EA is ORC: ORC.B #H'01,CCR. -/
theorem test_bit_16 : ends (boot reset1000 [0x04, 0x01, 0x49] [] 0x0700 [])
    0x1003 [] 0x0701 [] = true := by decide +kernel

/-- 95_test_vectors.md L2-sys-42 (R274): ORC.W #H'0700,SR. -/
theorem test_sys_42 : ends (boot reset1000 [0x0C, 0x07, 0x00, 0x48] [] 0x0005 [])
    0x1004 [] 0x0705 [] = true := by decide +kernel

/-- 95_test_vectors.md L2-sys-44 (R275): XORC.B #H'0F,CCR. -/
theorem test_sys_44 : ends (boot reset1000 [0x04, 0x0F, 0x69] [] 0x0705 [])
    0x1003 [] 0x070A [] = true := by decide +kernel

/-- 95_test_vectors.md L2-sys-45 (R275): XORC.W #H'0F0F,SR. -/
theorem test_sys_45 : ends (boot reset1000 [0x0C, 0x0F, 0x0F, 0x68] [] 0x0705 [])
    0x1004 [] 0x000A [] = true := by decide +kernel

/-- 95_test_vectors.md L2-sys-20 (R276): NOP. -/
theorem test_sys_20 : ends (boot reset1000 [0x00] [] 0x070F [])
    0x1001 [] 0x070F [] = true := by decide +kernel

/-! ### Forms 95_test_vectors.md has no row for -/

/-- R128: only the low byte of Rd changes. -/
theorem test_movLB : ends (boot { reset1000 with br := 0xFF } [0x63, 0xC1] [(3, 0x1234)] 0x0700 [(0xFFC1, 0x80)])
    0x1002 [(3, 0x1280)] 0x0708 [] = true := by decide +kernel

/-- R129: the high byte goes to the lower address. -/
theorem test_movSW : ends (boot { reset1000 with br := 0xFE } [0x79, 0x80] [(1, 0x12FF)] 0x0700 [])
    0x1002 [] 0x0700 [(0xFE80, 0x12), (0xFE81, 0xFF)] = true := by decide +kernel

/-- R125. -/
theorem test_movFLoadW : ends (boot reset1000 [0x88, 0xFE] [(6, 0xFE10)] 0x0700 [(0xFE0E, 0x80), (0xFE0F, 0x01)])
    0x1002 [(0, 0x8001)] 0x0708 [] = true := by decide +kernel

/-- R126. -/
theorem test_movFStoreB : ends (boot reset1000 [0x90, 0x01] [(0, 0x1200), (6, 0xFE10)] 0x0700 [])
    0x1002 [] 0x0704 [(0xFE11, 0x00)] = true := by decide +kernel

/-- R246. -/
theorem test_bsr8 : ends (boot reset1000 [0x0E, 0xFE] [(7, 0xFE00)] 0x0700 [])
    0x1000 [(7, 0xFDFE)] 0x0700 [(0xFDFE, 0x10), (0xFDFF, 0x02)] = true := by decide +kernel

/-- R247. -/
theorem test_jsrAbs : ends (boot reset1000 [0x18, 0x20, 0x00] [(7, 0xFE00)] 0x0700 [])
    0x2000 [(7, 0xFDFE)] 0x0700 [(0xFDFE, 0x10), (0xFDFF, 0x03)] = true := by decide +kernel

/-- The condition table L1-3: bit k of a mask says that the branch is taken with NZVC = k. -/
def takenMasks : List (Byte × BitVec 16) :=
  [(0, 0xFFFF), (1, 0x0000), (2, 0x0505), (3, 0xFAFA), (4, 0x5555), (5, 0xAAAA), (6, 0x0F0F), (7, 0xF0F0),
    (8, 0x3333), (9, 0xCCCC), (10, 0x00FF), (11, 0xFF00), (12, 0xCC33), (13, 0x33CC), (14, 0x0C03), (15, 0xF3FC)]

/-- The flags as the number NZVC. -/
def flagNumber (k : Nat) : Flags := { n := k.testBit 3, z := k.testBit 2, v := k.testBit 1, c := k.testBit 0 }

/-- Every condition with every value of the flags goes where L1-3 says, in the short form. -/
theorem test_bcc8 : (takenMasks.all fun p => (List.range 16).all fun k =>
    match decode [0x20 + p.1, 0x10] with
    | .instr i _ =>
      match exec i (reset1000.setFlags (flagNumber k)) with
      | .next t => t.pc == if p.2.getLsbD k then 0x1010 else 0x1000
      | _ => false
    | _ => false) = true := by decide +kernel

/-- The same of the long form. -/
theorem test_bcc16 : (takenMasks.all fun p => (List.range 16).all fun k =>
    match decode [0x30 + p.1, 0x80, 0x00] with
    | .instr i _ =>
      match exec i (reset1000.setFlags (flagNumber k)) with
      | .next t => t.pc == if p.2.getLsbD k then 0x9000 else 0x1000
      | _ => false
    | _ => false) = true := by decide +kernel

/-- R302: each EA field with an unassigned OP field goes to the handler of entry 2. -/
theorem test_unassigned_forms : (([[0xA1, 0x92], [0xD0, 0x10], [0xE0, 0x00, 0x03], [0xF0, 0x00, 0x00, 0x0A], [0xB0, 0x11],
    [0xC0, 0x0F], [0x05, 0x00, 0x10], [0x15, 0x00, 0x00, 0x12], [0x04, 0x00, 0x78], [0x0C, 0x00, 0x00, 0x90], [0x0B],
    [0x08, 0x2F]] : List (List Byte)).all fun code =>
      holds (boot reset1000 code [(7, 0xFE00)] 0x0700 [(4, 0x30), (5, 0x00)])
        fun t => t.pc == 0x3000 && t.reg 0 == 0 && t.sp == 0xFDFC) = true := by decide +kernel

/-- R304: a word at an odd address goes to the handler of entry 8 (L2-move-10). -/
theorem test_odd_word : holds (boot reset1000 [0x1D, 0x20, 0x01, 0x80] [(7, 0xFE00)] 0x0705 [(0x10, 0x30), (0x11, 0x00)])
    (fun t => t.pc == 0x3000 && t.byteAt 0xFDFD == some 0x05) = true := by decide +kernel

/-- R296, D41: with SP odd the entry cannot be completed (L2-sys-5). -/
theorem test_double_fault : (match step (boot reset1000 [0x08, 0x10] [(7, 0xFDFF)] 0x0700 []) with
    | .fault f => f == .doubleFault
    | _ => false) = true := by decide +kernel

/-- R312: T set before the instruction, so the trace exception of entry 9 follows it. -/
theorem test_trace : holds (boot reset1000 [0x00] [(7, 0xFE00)] 0x8700 [(0x12, 0x30), (0x13, 0x00)])
    (fun t => t.pc == 0x3000 && t.sr.t == false && t.byteAt 0xFDFC == some 0x87 && t.byteAt 0xFDFF == some 0x01) = true := by
  decide +kernel

/-- What the spec refuses: U1, U2, U6, U7, U8, U10, U17, U14. -/
theorem test_refusals :
    (refuses (boot reset1000 [0xA8, 0x89] [] 0x0700 []) .controlRegisterNotAllowed
      && refuses (boot reset1000 [0xD1, 0xC8] [(1, 0x2000)] 0x0700 [(0x2000, 0)]) .bitNumberOnByte
      && refuses (boot reset1000 [0xB7, 0x90] [(7, 0xFE00)] 0x0700 []) .byteThroughStackPointer
      && refuses (boot reset1000 [0xCA, 0x22] [(2, 0x2000)] 0x0700 []) .registerIsAutoBase
      && refuses (boot reset1000 [0x02, 0x80] [(7, 0xFE00)] 0x0700 []) .stackPointerInList
      && refuses (boot reset1000 [0xA1, 0x00, 0xA0] [(0, 0x0A)] 0x0700 []) .nonDecimalOperand
      && refuses (boot reset1000 [0xA9, 0xAB] [] 0x0700 []) .oddPairRegister
      && refuses (boot reset1000 [0x11, 0x19] [] 0x0700 []) .pageInstructionInMinimumMode
      && refuses (boot { reset1000 with mode := .max } [0x11, 0xC7] [] 0x0700 []) .pageTargetInR7
      && refuses (boot reset1000 [0xD0, 0x80] [(0, 0x2000)] 0x0700 []) .memoryNotSupplied) = true := by decide +kernel

/-- R67, U16: an instruction byte the program has stored is not fetched. -/
theorem test_stored_byte : refuses ((boot reset1000 [0x00] [] 0x0700 []).storeByte 0x1000 0) .fetchOfStoredByte = true := by
  decide +kernel

/-- `withFetchWord` on the reset state: the next step runs the instruction. -/
theorem test_fetch_word : holds (State.reset.withFetchWord 24 0x5A1234) (fun t => t.reg 2 == 0x1234 && t.pc == 3) = true := by
  decide +kernel

/-! ## For every statement with hypotheses, a state and operands that meet them together -/

/-- Code at PC, registers, the vectors of the exceptions, a word at H'2000 and at H'2010, and a frame at SP. -/
def wit : State :=
  boot { reset1000 with br := 0x20 } [0xD8, 0x21] [(0, 0x2000), (1, 0x0102), (2, 0x0003), (6, 0x2010), (7, 0xFE00)] 0x0405
    [(0x0000, 0x10), (0x0001, 0x00), (0x0004, 0x30), (0x0005, 0x02), (0x0006, 0x30), (0x0007, 0x03), (0x0008, 0x30), (0x0009, 0x04),
      (0x0010, 0x30), (0x0011, 0x08), (0x0012, 0x30), (0x0013, 0x09), (0x0016, 0x30), (0x0017, 0x0B), (0x0020, 0x30), (0x0021, 0x10),
      (0x003E, 0x30), (0x003F, 0x1F), (0x0040, 0x30), (0x0041, 0x20), (0x2000, 0x12), (0x2001, 0x34), (0x2010, 0x56), (0x2011, 0x78),
      (0xFE00, 0x07), (0xFE01, 0x05), (0xFE02, 0x20), (0xFE03, 0x00), (0xFE04, 0x40), (0xFE05, 0x00), (0xFE06, 0x00), (0xFE07, 0x01),
      (0xFE08, 0x00), (0xFE09, 0x02), (0xFE0A, 0x00), (0xFE0B, 0x03), (0xFE0C, 0x00), (0xFE0D, 0x04)]

/-- The same in maximum mode, in page 1, with the vectors and the stack in page 0. -/
def witMax : State :=
  boot { reset1000 with mode := .max, cp := 1, br := 0x20 } [0xD8, 0x21] [(0, 0x2000), (1, 0x0102), (6, 0x2010), (7, 0xFE00)] 0x0405
    [(0x0000, 0x00), (0x0001, 0x02), (0x0002, 0x10), (0x0003, 0x00), (0x0008, 0x00), (0x0009, 0x03), (0x000A, 0x30), (0x000B, 0x02),
      (0x0040, 0x00), (0x0041, 0x03), (0x0042, 0x30), (0x0043, 0x10), (0x2000, 0x12), (0x2001, 0x34),
      (0xFE00, 0x07), (0xFE01, 0x05), (0xFE02, 0x20), (0xFE03, 0x06), (0xFE04, 0x40), (0xFE05, 0x00)]

/-- An outcome is a next state with a property, as a Bool the kernel evaluates. -/
def nextIs (o : Outcome) (p : State → Bool) : Bool :=
  match o with
  | .next t => p t
  | _ => false

theorem exists_next {o : Outcome} {p : State → Bool} (h : nextIs o p = true) : ∃ t, o = .next t ∧ p t = true := by
  cases o <;> first | exact ⟨_, rfl, h⟩ | exact absurd h (by simp [nextIs])

theorem goes_on {o : Outcome} (h : nextIs o (fun _ => true) = true) : ∃ t, o = .next t :=
  let ⟨t, ht, _⟩ := exists_next h
  ⟨t, ht⟩

/-- A result is a value with a property, as a Bool the kernel evaluates. -/
def okIs {ε α : Type} (o : Except ε α) (p : α → Bool) : Bool :=
  match o with
  | .ok a => p a
  | .error _ => false

theorem exists_ok {ε α : Type} {o : Except ε α} {p : α → Bool} (h : okIs o p = true) : ∃ a, o = .ok a ∧ p a = true := by
  cases o <;> first | exact ⟨_, rfl, h⟩ | exact absurd h (by simp [okIs])

/-- `vectorGives` in minimum mode, with the addresses it speaks of evaluated: `f` are those of the frame. -/
theorem vector_min_at {n : Nat} {cp : Byte} {pc : Word} {s : State} (f : List Addr) (v : Addr) (hm : s.mode = .min)
    (hv : phys s .vector (BitVec.ofNat 16 (2 * n)) = v) (hf : stackBytes s 2 = f) (h : cp = s.cp ∧ s.wordAt v = some pc)
    (hd : (operandBytes .word v).all (fun a => !f.contains a) = true) : vectorGives n cp pc s := by
  unfold vectorGives
  rw [hm]
  exact ⟨h.1, by rw [hv]; exact h.2, by rw [hv, hf]; intro a ha; simpa using List.all_eq_true.mp hd a ha⟩

/-- The same with the frame below the SP of `wit`. -/
theorem vector_min {n : Nat} {cp : Byte} {pc : Word} {s : State} (v : Addr) (hm : s.mode = .min)
    (hv : phys s .vector (BitVec.ofNat 16 (2 * n)) = v) (hf : stackBytes s 2 = [0xFDFE, 0xFDFF, 0xFDFC, 0xFDFD])
    (h : cp = s.cp ∧ s.wordAt v = some pc)
    (hd : (operandBytes .word v).all (fun a => !([0xFDFE, 0xFDFF, 0xFDFC, 0xFDFD] : List Addr).contains a) = true) : vectorGives n cp pc s :=
  vector_min_at _ v hm hv hf h hd

/-- `vectorGives` in maximum mode, with the addresses it speaks of evaluated. -/
theorem vector_max {n : Nat} {cp : Byte} {pc hi : Word} {s : State} (v w : Addr) (hm : s.mode = .max)
    (hv : phys s .vector (BitVec.ofNat 16 (4 * n)) = v) (hw : phys s .vector (BitVec.ofNat 16 (4 * n + 2)) = w)
    (hf : stackBytes s 3 = [0xFDFE, 0xFDFF, 0xFDFC, 0xFDFD, 0xFDFA, 0xFDFB])
    (h : s.wordAt v = some hi ∧ hi.extractLsb' 0 8 = cp ∧ s.wordAt w = some pc)
    (hd : (operandBytes .word v ++ operandBytes .word w).all
      (fun a => !([0xFDFE, 0xFDFF, 0xFDFC, 0xFDFD, 0xFDFA, 0xFDFB] : List Addr).contains a) = true) : vectorGives n cp pc s := by
  unfold vectorGives
  rw [hm]
  exact ⟨⟨hi, by rw [hv]; exact h.1, h.2.1⟩, by rw [hw]; exact h.2.2, by rw [hv, hw, hf]; intro a ha; simpa using List.all_eq_true.mp hd a ha⟩

theorem witness_encoding : WellFormed (.addG .word (.imm (.imm16 0x8001)) 7) ∧ WellFormed (.movGImm8 .word 0x80 (.disp16 7 0xFFFF)) := by
  decide +kernel

theorem witness_decoded_bytes : decode [0xD0, 0x21, 0x00] = .instr (.addG .byte (.mem (.ind 0)) 1) [0x00] ∧
    (Instr.addG .byte (.mem (.ind 0)) 1).isEaRow = false := by decide +kernel

theorem witness_decoded_ea_row : decode [0xD0, 0x10] = .instr (.eaInd .byte 0) [] ∧ (Instr.eaInd .byte 0).isEaRow = true := by
  decide +kernel

/-- The bytes on both sides of the assigned ranges of TRAPA and SCB. -/
theorem witness_special_formats : ((0x0F : Byte).extractLsb' 4 4 ≠ 1 ∧ (0x20 : Byte).extractLsb' 4 4 ≠ 1) ∧
    ((0xB7 : Byte).extractLsb' 3 5 ≠ 0b10111 ∧ (0xC0 : Byte).extractLsb' 3 5 ≠ 0b10111) ∧
    ([0x00, 0x13, 0x15, 0x18, 0x1A, 0x1B, 0x1D, 0xBF] : List Byte).all
      (fun b => decide (b ∉ ([0x14, 0x19, 0x1C] : List Byte) ∧ b.toNat < 0xC0)) = true := by decide +kernel

theorem witness_step_decoded : wit.runState = .running ∧
    decode (fetchWindow wit) = .instr (.addG .word (.mem (.ind 0)) 1) [] := by decide +kernel

theorem witness_step_encoded : wit.runState = .running ∧ wit.sr.t = false ∧ WellFormed (.addG .word (.mem (.ind 0)) 1) ∧
    ∀ (k : Nat) (h : k < (encode (.addG .word (.mem (.ind 0)) 1)).length),
      fetchByte wit k = .ok (encode (.addG .word (.mem (.ind 0)) 1))[k] :=
  ⟨by decide +kernel, by decide +kernel, by decide +kernel, fun k h => match k, h with
    | 0, _ => rfl
    | 1, _ => rfl
    | _ + 2, h => absurd h (by simp [encode, SrcEa.encode, MemEa.encode])⟩

/-- `wit` with T set and NOP at PC. -/
def witTrace : State := (wit.setSr { wit.sr with t := true }).supplyCode 0 [0x00]

theorem fetch_trace : fetchInstr witTrace = .ok (.nop, witTrace.setPc (witTrace.pc + 1)) := by
  have h : decode (fetchWindow witTrace) = .instr .nop [0x21] := by decide +kernel
  have hl : (fetchWindow witTrace).length = 2 := by decide +kernel
  unfold fetchInstr
  rw [h]
  simp [hl]

theorem witness_trace : witTrace.runState = .running ∧ witTrace.sr.t = true ∧
    ∃ s1 u, fetchInstr witTrace = .ok (.nop, s1) ∧ exec .nop s1 = .next u ∧ u.sp.getLsbD 0 = false ∧
      vectorGives Config.vecTrace 0 0x3009 u :=
  ⟨by decide +kernel, by decide +kernel, _, witTrace.setPc (witTrace.pc + 1), fetch_trace, rfl, by decide +kernel,
    vector_min 0x12 (by decide +kernel) (by decide +kernel) (by decide +kernel) (by decide +kernel) (by decide +kernel)⟩

/-- With T set and an unassigned code at PC, the InvalidInstruction exception is entered, and the trace vector is there. -/
theorem witness_trace_invalid :
    let s := (wit.setSr { wit.sr with t := true }).supplyCode 0 [0x0B]
    s.runState = .running ∧ s.sr.t = true ∧ decode (fetchWindow s) = .unassigned ∧
      ∃ u, raiseInvalidInstruction s = .ok u ∧ vectorGives Config.vecTrace 0 0x3009 u :=
  ⟨by decide +kernel, by decide +kernel, by decide +kernel, _, rfl,
    vector_min_at [0xFDFA, 0xFDFB, 0xFDF8, 0xFDF9] 0x12 (by decide +kernel) (by decide +kernel) (by decide +kernel) (by decide +kernel) (by decide +kernel)⟩

theorem witness_consistency : wit.Inv ∧ ∃ t, step wit = .next t := ⟨by decide +kernel, goes_on (by decide +kernel)⟩

theorem witness_mode : wit.mode = .min ∧ ∃ t, step wit = .next t := ⟨by decide +kernel, goes_on (by decide +kernel)⟩

theorem witness_control : (∃ t, exec (.addG .word (.mem (.ind 0)) 1) wit = .next t) ∧
    writesControl (.addG .word (.mem (.ind 0)) 1) = false ∧ ∃ t, exec .rte wit = .next t :=
  ⟨goes_on (by decide +kernel), by decide +kernel, goes_on (by decide +kernel)⟩

theorem witness_stored : ∃ t, exec (.movGStore .byte 1 (.ind 0)) wit = .next t ∧ t.byteAt 0x2000 ≠ wit.byteAt 0x2000 :=
  have ⟨t, h, p⟩ := exists_next (o := exec (.movGStore .byte 1 (.ind 0)) wit) (p := fun t => t.byteAt 0x2000 != wit.byteAt 0x2000)
    (by decide +kernel)
  ⟨t, h, by simpa using p⟩

theorem witness_fetch_stored : (wit.storeByte 0x1000 0).runState = .running ∧
    (fetchAddr (wit.storeByte 0x1000 0) 0).toNat ∈ (wit.storeByte 0x1000 0).stored := by decide +kernel

theorem witness_fetch_missing : (wit.setPc 0x5000).runState = .running ∧
    (fetchAddr (wit.setPc 0x5000) 0).toNat ∉ (wit.setPc 0x5000).stored ∧
    (wit.setPc 0x5000).byteAt (fetchAddr (wit.setPc 0x5000) 0) = none := by decide +kernel

/-- Two bytes fetched, `@aa:8` without its OP byte, and the third byte marked or not there; the least and the longest prefix. -/
theorem witness_fetch_later :
    let s := wit.supplyCode 0 [0x0D]
    (s.runState = .running ∧ ([0x0D, 0x21] : List Byte).length < maxLength ∧ decode [0x0D, 0x21] = .truncated ∧ fetchByte s 0 = .ok 0x0D ∧
      fetchByte s 1 = .ok 0x21 ∧ (fetchAddr s 2).toNat ∉ s.stored ∧ s.byteAt (fetchAddr s 2) = none) ∧
    (fetchByte (s.storeByte 0x1002 0) 0 = .ok 0x0D ∧ fetchByte (s.storeByte 0x1002 0) 1 = .ok 0x21 ∧
      (fetchAddr (s.storeByte 0x1002 0) 2).toNat ∈ (s.storeByte 0x1002 0).stored) ∧
    decode [] = .truncated ∧ decode [0xF9, 0x00, 0x10, 0x07, 0xAB] = .truncated :=
  ⟨⟨by decide +kernel, by decide +kernel, by decide +kernel, rfl, rfl, by decide +kernel, by decide +kernel⟩, ⟨rfl, rfl, by decide +kernel⟩, by decide +kernel, by decide +kernel⟩

theorem witness_parity : isEven 0 = true ∧ isEven 0xFFFFFE = true ∧ isEven 1 = false ∧ isEven 0xFFFFFF = false := by decide +kernel

theorem witness_modes : wit.mode = .min ∧ witMax.mode = .max := by decide +kernel

theorem witness_operand_byte : eaRefusal .byte (some 1) (.postInc 0) = none ∧ wit.byteAt (memAddr .byte (.postInc 0) wit) = some 0x12 := by
  decide +kernel

theorem witness_operand_word : eaRefusal .word (some 1) (.postInc 7) = none ∧ (memAddr .word (.postInc 7) wit).toNat % 2 = 0 ∧
    wit.wordAt (memAddr .word (.postInc 7) wit) = some 0x0705 := by decide +kernel

theorem witness_refused_operands : eaRefusal .byte (some 0) (.preDec 7) = some .byteThroughStackPointer ∧
    eaRefusal .byte (some 7) (.postInc 7) = some .byteThroughStackPointer ∧
    eaRefusal .word (some 7) (.preDec 7) = some .registerIsAutoBase ∧ eaRefusal .word (some 6) (.preDec 7) = none ∧
    eaRefusal .byte none (.preDec 7) = some .byteThroughStackPointer ∧
    eaRefusal .byte none (.postInc 7) = some .byteThroughStackPointer := by decide +kernel

theorem witness_refused_control : ((Size.byte, CtlReg.sr) ∉
      [(Size.word, CtlReg.sr), (.byte, .ccr), (.byte, .br), (.byte, .ep), (.byte, .dp), (.byte, .tp)]) ∧
    (((ImmEa.imm16 0).size, CtlReg.ccr) ∉
      [(Size.word, CtlReg.sr), (.byte, .ccr), (.byte, .br), (.byte, .ep), (.byte, .dp), (.byte, .tp)]) ∧
    (0x80 : Byte).getLsbD 7 = true := by decide +kernel

theorem witness_misaligned : isEven (memAddr .word (.disp8 0 1) wit) = false ∧ eaRefusal .word none (.disp8 0 1) = none ∧
    eaRefusal .word (some 1) (.disp8 0 1) = none ∧ isEven (memAddr .word (.abs8 0x11) wit) = false ∧
    isEven (memAddr .word (.disp8 6 0xFF) wit) = false := by decide +kernel

theorem witness_source_byte : okIs (fetchSource .byte (some 1) (.mem (.postInc 0)) wit) (fun p => p.1 == (0x12 : Byte)) = true := by
  decide +kernel

theorem witness_source_word : okIs (fetchSource .word (some 1) (.mem (.ind 0)) wit) (fun p => p.1 == (0x1234 : Word)) = true := by
  decide +kernel

theorem witness_short_moves : wit.byteAt (phys wit .abs8 (wit.br ++ (0x10 : Byte))) = some 0x56 ∧
    isEven (phys wit .abs8 (wit.br ++ (0x10 : Byte))) = true ∧ wit.wordAt (phys wit .abs8 (wit.br ++ (0x10 : Byte))) = some 0x5678 ∧
    wit.byteAt (phys wit (.dataReg 6) (wit.reg 6 + (0xF0 : Byte).signExtend 16)) = some 0x12 ∧
    isEven (phys wit (.dataReg 6) (wit.reg 6 + (0xF0 : Byte).signExtend 16)) = true ∧
    wit.wordAt (phys wit (.dataReg 6) (wit.reg 6 + (0xF0 : Byte).signExtend 16)) = some 0x1234 := by decide +kernel

theorem witness_store : aligned .word (memAddr .word (.preDec 7) wit) = true ∧ eaRefusal .word (some 1) (.preDec 7) = none ∧
    eaRefusal .word none (.preDec 7) = none ∧ isEven (memAddr .word (.preDec 7) wit) = true ∧
    eaRefusal .byte (some 1) (.preDec 0) = none := by decide +kernel

theorem witness_exchange : ((wit.setReg 1 1).setReg 2 2).reg 1 = 1 ∧ ((wit.setReg 1 1).setReg 2 2).reg 2 = 2 := by decide +kernel

/-- The cases of SWAP whose N and Z are said: equal sign bits, a zero, a low byte that is not zero. -/
theorem witness_swap : (nextIs (exec (.swap 2) wit) (fun t => (t.reg 2).getLsbD 7 == (t.reg 2).getLsbD 15) &&
    nextIs (exec (.swap 3) wit) (fun t => t.reg 3 == 0) &&
    nextIs (exec (.swap 1) wit) (fun t => (t.reg 1).extractLsb' 0 8 != 0)) = true := by decide +kernel

/-- The longest list and the empty one. -/
theorem witness_register_list : wit.sp.getLsbD 0 = false ∧ (0x7F : Byte).getLsbD 7 = false ∧ (0x00 : Byte).getLsbD 7 = false ∧
    (listedRegs 0x7F).length = 7 ∧ (List.range 7).all (fun j =>
      (wit.wordAt (phys wit .stack (wit.sp + BitVec.ofNat 16 (2 * j)))).isSome) = true := by decide +kernel

theorem witness_stm : wit.sp.getLsbD 0 = false ∧ (∃ t, exec (.stm 0x7F) wit = .next t) ∧ ∃ t, exec (.stm 0x00) wit = .next t :=
  ⟨by decide +kernel, goes_on (by decide +kernel), goes_on (by decide +kernel)⟩

theorem witness_destination :
    (okIs (fetchDest .byte none (.mem (.ind 0)) wit) (fun p => p.1 == (0x12 : Byte)) &&
      okIs (fetchDest .word none (.mem (.postInc 0)) wit) (fun p => p.1 == (0x1234 : Word)) &&
      okIs (fetchDest .word none (.reg 1) wit) (fun p => p.1 == (0x0102 : Word))) = true := by decide +kernel

theorem witness_decimal : isDecimal (wit.regOp .byte 1) = true ∧ isDecimal 0x99 = true ∧ isDecimal 0x9A = false ∧
    isDecimal 0xA0 = false := by decide +kernel

/-- The largest byte quotient, 255, and the first that does not fit, 256. -/
theorem witness_divide_byte :
    (okIs (fetchSource .byte (some 0) (.reg 2) (wit.setReg 0 0x02FF)) (fun p => p.1 == (3 : Byte)) &&
      okIs (fetchSource .byte (some 0) (.reg 2) (wit.setReg 0 0x0300)) (fun p => p.1 == (3 : Byte))) = true ∧ (3 : Byte) ≠ 0 ∧
    ((wit.setReg 0 0x02FF).reg 0).toNat / (3 : Byte).toNat < 2 ^ 8 ∧
    2 ^ 8 ≤ ((wit.setReg 0 0x0300).reg 0).toNat / (3 : Byte).toNat := by decide +kernel

/-- The largest word quotient, 65535, and the first that does not fit, 65536, in R4 and R5. -/
theorem witness_divide_word :
    okIs (fetchSource .word (some 4) (.reg 2) ((wit.setReg 4 2).setReg 5 0xFFFF)) (fun p => p.1 == (3 : Word) &&
      decide (((wit.setReg 4 2).reg 4).toNat * 65536 + (p.2.reg 5).toNat < 3 * 2 ^ 16)) = true ∧
    okIs (fetchSource .word (some 4) (.reg 2) (wit.setReg 4 3)) (fun p => p.1 == (3 : Word) &&
      decide (3 * 2 ^ 16 ≤ ((wit.setReg 4 3).reg 4).toNat * 65536 + (p.2.reg 5).toNat)) = true ∧
    (3 : Word) ≠ 0 ∧ (4 : Reg).val % 2 = 0 ∧ (5 : Reg).val % 2 = 1 := by decide +kernel

theorem witness_zero_divide : fetchSource .word (some 0) (.reg 3) wit = .ok (wit.regOp .word 3, wit) ∧ wit.regOp .word 3 = 0 ∧
    wit.sp.getLsbD 0 = false ∧ vectorGives Config.vecZeroDiv 0 0x3003 wit ∧ (0 : Reg).val % 2 = 0 :=
  ⟨rfl, by decide +kernel, by decide +kernel, vector_min 0x06 (by decide +kernel) (by decide +kernel) (by decide +kernel) (by decide +kernel) (by decide +kernel), by decide +kernel⟩

theorem witness_extend : (wit.setReg 0 0x1280).reg 0 = 0x1280 := by decide +kernel

theorem witness_clear : okIs (locateDst .word none (.mem (.preDec 7)) wit) (fun p => p.1 == .mem 0xFDFE (some 7)) = true ∧
    ∀ a auto, (Loc.mem 0xFDFE (some 7)) = .mem a auto → aligned .word a = true :=
  ⟨by decide +kernel, fun a auto h => by cases h; decide +kernel⟩

/-- The least and greatest bit numbers of each size, and the least refused on a byte. -/
theorem witness_bits : (0 : BitVec 4).toNat < Size.byte.bits ∧ (7 : BitVec 4).toNat < Size.byte.bits ∧
    (15 : BitVec 4).toNat < Size.word.bits ∧ 8 ≤ (8 : BitVec 4).toNat ∧ (wit.reg 2).toNat % 16 < Size.byte.bits ∧
    8 ≤ ((wit.setReg 2 0x0008).reg 2).toNat % 16 := by decide +kernel

theorem witness_bit_operand : (okIs (locateDst .byte (some 2) (.mem (.ind 0)) wit) (fun _ => true) &&
    okIs (fetchDest .byte (some 2) (.mem (.ind 0)) wit) (fun p => p.1 == (0x12 : Byte))) = true := by decide +kernel

theorem witness_compare : okIs (fetchSource .word (some 1) (.mem (.ind 0)) wit) (fun p => p.1 == (0x1234 : Word)) = true ∧
    ∃ t, exec (.cmpG .word (.mem (.ind 0)) 1) wit = .next t := ⟨by decide +kernel, goes_on (by decide +kernel)⟩

/-- The count at 0, 1 and H'FFFF, with Z either way. -/
theorem witness_loop : wit.reg 3 = 0 ∧ (wit.setReg 3 1).reg 3 ≠ 0 ∧ (wit.setReg 3 0xFFFF).reg 3 ≠ 0 ∧ wit.flags.z = true ∧
    (wit.setFlags { n := false, z := false, v := false, c := false }).flags.z = false := by decide +kernel

theorem witness_call : wit.sp.getLsbD 0 = false ∧ ∃ t, exec (.jsrInd 0) wit = .next t := ⟨by decide +kernel, goes_on (by decide +kernel)⟩

theorem witness_return_min : wit.mode = .min ∧ wit.sp.getLsbD 0 = false ∧ wit.wordAt (phys wit .stack wit.sp) = some 0x0705 ∧
    wit.wordAt (phys wit .stack (wit.sp + 2)) = some 0x2000 := by decide +kernel

theorem witness_return_max : witMax.mode = .max ∧ witMax.sp.getLsbD 0 = false ∧
    witMax.wordAt (phys witMax .stack witMax.sp) = some 0x0705 ∧ witMax.wordAt (phys witMax .stack (witMax.sp + 2)) = some 0x2006 ∧
    witMax.wordAt (phys witMax .stack (witMax.sp + 4)) = some 0x4000 := by decide +kernel

theorem witness_page_call : witMax.mode = .max ∧ witMax.sp.getLsbD 0 = false ∧ (6 : Reg) ≠ 7 ∧
    ∃ t, exec (.pjsrAbs 5 0x1000) witMax = .next t := ⟨by decide +kernel, by decide +kernel, by decide +kernel, goes_on (by decide +kernel)⟩

theorem witness_link : wit.sp.getLsbD 0 = false ∧ (wit.reg Config.fpIndex).getLsbD 0 = false ∧
    wit.wordAt (phys wit .stack (wit.reg Config.fpIndex)) = some 0x5678 := by decide +kernel

theorem witness_entry_min : wit.sp.getLsbD 0 = false ∧ vectorGives 16 0 0x3010 wit := ⟨by decide +kernel, vector_min 0x20 (by decide +kernel) (by decide +kernel) (by decide +kernel) (by decide +kernel) (by decide +kernel)⟩

theorem witness_entry_max : witMax.sp.getLsbD 0 = false ∧ vectorGives 16 3 0x3010 witMax :=
  ⟨by decide +kernel, vector_max (hi := 0x0003) 0x40 0x42 (by decide +kernel) (by decide +kernel) (by decide +kernel) (by decide +kernel) (by decide +kernel) (by decide +kernel)⟩

theorem witness_trap : vectorGives (16 + (15 : BitVec 4).toNat) 0 0x301F wit ∧ vectorGives Config.vecTrapVs 0 0x3004 wit ∧
    (wit.setFlags { n := false, z := false, v := true, c := false }).flags.v = true ∧ wit.flags.v = false ∧
    vectorGives Config.vecTrapVs 0 0x3004 (wit.setFlags { n := false, z := false, v := true, c := false }) :=
  ⟨vector_min 0x3E (by decide +kernel) (by decide +kernel) (by decide +kernel) (by decide +kernel) (by decide +kernel), vector_min 0x08 (by decide +kernel) (by decide +kernel) (by decide +kernel) (by decide +kernel) (by decide +kernel), by decide +kernel, by decide +kernel, vector_min 0x08 (by decide +kernel) (by decide +kernel) (by decide +kernel) (by decide +kernel) (by decide +kernel)⟩

theorem witness_invalid : wit.sp.getLsbD 0 = false ∧ vectorGives Config.vecInvalid 0 0x3002 wit ∧
    (wit.supplyCode 0 [0x0B]).runState = .running ∧ (wit.supplyCode 0 [0x0B]).sr.t = false ∧
    decode (fetchWindow (wit.supplyCode 0 [0x0B])) = .unassigned ∧ (wit.supplyCode 0 [0x0B]).sp.getLsbD 0 = false ∧
    vectorGives Config.vecInvalid 0 0x3002 (wit.supplyCode 0 [0x0B]) :=
  ⟨by decide +kernel, vector_min 0x04 (by decide +kernel) (by decide +kernel) (by decide +kernel) (by decide +kernel) (by decide +kernel), by decide +kernel, by decide +kernel, by decide +kernel,
    by decide +kernel, vector_min 0x04 (by decide +kernel) (by decide +kernel) (by decide +kernel) (by decide +kernel) (by decide +kernel)⟩

theorem witness_address_error : (none : Option Reg) ≠ some Config.spIndex ∧ (some 0 : Option Reg) ≠ some Config.spIndex ∧
    wit.sp.getLsbD 0 = false ∧ vectorGives Config.vecAddrErr 0 0x3008 wit :=
  ⟨by decide +kernel, by decide +kernel, by decide +kernel, vector_min 0x10 (by decide +kernel) (by decide +kernel) (by decide +kernel) (by decide +kernel) (by decide +kernel)⟩

/-- SP odd, in both modes, with V set, a list that is not empty and a register other than R7; FP odd. -/
theorem witness_double_fault :
    ((wit.setSp 0xFE01).setFlags { n := false, z := false, v := true, c := false }).sp.getLsbD 0 = true ∧
    ((wit.setSp 0xFE01).setFlags { n := false, z := false, v := true, c := false }).flags.v = true ∧
    (witMax.setSp 0xFE01).sp.getLsbD 0 = true ∧ (witMax.setSp 0xFE01).mode = .max ∧ (6 : Reg) ≠ 7 ∧
    (0x40 : Byte).getLsbD 7 = false ∧ listedRegs 0x40 ≠ [] ∧
    ((wit.setReg Config.fpIndex 0x2011).reg Config.fpIndex).getLsbD 0 = true := by decide +kernel

theorem witness_entry_taken :
    (okIs (takeException 16 0x1234 wit) (fun _ => true) && okIs (takeException 16 0x1234 witMax) (fun _ => true)) = true := by decide +kernel

theorem witness_sleep : (wit.setRunState .powerDown).runState = .powerDown ∧ Instr.nop ≠ .sleep ∧ wit.runState = .running ∧
    ∃ t, exec .nop wit = .next t := ⟨by decide +kernel, by decide +kernel, by decide +kernel, goes_on (by decide +kernel)⟩

theorem witness_nop : (wit.supplyCode 0 [0x00]).runState = .running ∧ (wit.supplyCode 0 [0x00]).sr.t = false ∧
    fetchByte (wit.supplyCode 0 [0x00]) 0 = .ok 0x00 := ⟨by decide +kernel, by decide +kernel, rfl⟩

theorem witness_control_transfer : (okIs (fetchSource .word none (.mem (.ind 0)) wit) (fun p => p.1 == (0x1234 : Word)) &&
    okIs (fetchSource .byte none (.mem (.ind 0)) wit) (fun p => p.1 == (0x12 : Byte))) = true ∧
    eaRefusal .byte none (.preDec 0) = none := by decide +kernel

theorem witness_reset : wit.mode = .min ∧ wit.wordAt 0 = some 0x1000 ∧ witMax.mode = .max ∧ witMax.wordAt 0 = some 0x0002 ∧
    witMax.wordAt 2 = some 0x1000 := by decide +kernel

/-- The mask of `wit` is 4: a request of level 4 is not accepted, one of level 5 or 7 is. -/
theorem witness_interrupt : 4 ≤ wit.sr.imask.toNat ∧ wit.sr.imask.toNat < 5 ∧ wit.sr.imask.toNat < 7 ∧ wit.sp.getLsbD 0 = false ∧
    vectorGives 32 0 0x3020 wit ∧ vectorGives Config.vecNmi 0 0x300B wit :=
  ⟨by decide +kernel, by decide +kernel, by decide +kernel, by decide +kernel, vector_min 0x40 (by decide +kernel) (by decide +kernel) (by decide +kernel) (by decide +kernel) (by decide +kernel), vector_min 0x16 (by decide +kernel) (by decide +kernel) (by decide +kernel) (by decide +kernel) (by decide +kernel)⟩

theorem witness_timing : (∀ r m, Instr.nop ≠ .movtpe r m) ∧ (∀ m d, Instr.nop ≠ .movfpe m d) :=
  ⟨fun _ _ => Instr.noConfusion, fun _ _ => Instr.noConfusion⟩

end Sys2Proof.Machine.Tests
end

/-! ## Arithmetic flags in numbers

The flag helpers of 00_scope.md R13, for a size of any number of bits above 0. V is computed from three signs; the idea is
that a signed sum or difference, which lies between -2^n and 2^n, is out of range exactly when wrapping it changes its sign. -/

section ArithmeticFlags

namespace Sys2Proof.Machine

variable {n : Nat}

theorem bits_pos (sz : Size) : 0 < sz.bits := by
  cases sz <;> decide

/-- `x` is the value of a signed number of `n` bits. -/
def SignedFits (n : Nat) (x : Int) : Prop := -(2 : Int) ^ (n - 1) ≤ x ∧ x < (2 : Int) ^ (n - 1)

theorem signedFits_toInt (a : BitVec n) : SignedFits n a.toInt := ⟨a.le_toInt, BitVec.toInt_lt⟩

theorem two_pow_eq_two_mul_half (hn : 0 < n) : (2 : Int) ^ n = 2 * (2 : Int) ^ (n - 1) := by
  rw [mul_comm, ← pow_succ, Nat.sub_add_cancel hn]

/-- Wrapping a number that is in range keeps its sign, and wrapping one that is out of range by less than 2^n changes it. -/
theorem wrap_keeps_sign_iff (hn : 0 < n) {x : Int} (hlo : -(2 : Int) ^ n ≤ x) (hhi : x < (2 : Int) ^ n) :
    (x.bmod (2 ^ n) < 0 ↔ x < 0) ↔ SignedFits n x := by
  have hneg := Int.bmod_neg_iff (m := 2 ^ n) (x := x) (by simpa using hlo) (by simpa using hhi)
  rw [hneg, SignedFits]
  push_cast
  have hhalf := two_pow_eq_two_mul_half hn
  omega

/-- The rule behind V of both operations: where a result outside the range is possible (`canOverflow`: by the signs of the
operands), the exact result `x` has the sign of the first operand, so comparing with that sign tells whether `x` was wrapped. -/
theorem wrapped_sign_differs_iff (hn : 0 < n) {x first : Int} {canOverflow : Prop} (hlo : -(2 : Int) ^ n ≤ x)
    (hhi : x < (2 : Int) ^ n) (hsign : canOverflow → (x < 0 ↔ first < 0)) (hfits : ¬ canOverflow → SignedFits n x) :
    (canOverflow ∧ ¬ (x.bmod (2 ^ n) < 0 ↔ first < 0)) ↔ ¬ SignedFits n x := by
  by_cases hcan : canOverflow
  · rw [← wrap_keeps_sign_iff hn hlo hhi, hsign hcan]
    exact and_iff_right hcan
  · exact iff_of_false (fun h => hcan h.1) (not_not_intro (hfits hcan))

/-! ### Addition -/

theorem toNat_addWith (a b : BitVec n) (c : Bool) :
    (addWith a b c).toNat = (a.toNat + b.toNat + c.toNat) % 2 ^ n := BitVec.toNat_ofNat ..

theorem toInt_addWith (a b : BitVec n) (c : Bool) :
    (addWith a b c).toInt = (a.toInt + b.toInt + c.toNat).bmod (2 ^ n) := by
  rw [addWith, ← BitVec.toInt_ofInt]
  simp [BitVec.ofInt_add, BitVec.ofNat_add]

theorem addFlags_n_iff (a b : BitVec n) (c : Bool) : (addFlags a b c).n = true ↔ (addWith a b c).toInt < 0 := by
  simp [addFlags, BitVec.msb_eq_toInt]

theorem addFlags_z_iff (a b : BitVec n) (c : Bool) : (addFlags a b c).z = true ↔ (addWith a b c).toNat = 0 := by
  simp [addFlags, ← BitVec.toNat_inj]

theorem addFlags_c_iff (a b : BitVec n) (c : Bool) :
    (addFlags a b c).c = true ↔ 2 ^ n ≤ a.toNat + b.toNat + c.toNat := decide_eq_true_iff

/-- V is set when operands of one sign give a result of the other. -/
theorem addFlags_v_iff_signs (a b : BitVec n) (c : Bool) :
    (addFlags a b c).v = true ↔
      (a.toInt < 0 ↔ b.toInt < 0) ∧ ¬ ((a.toInt + b.toInt + c.toNat).bmod (2 ^ n) < 0 ↔ a.toInt < 0) := by
  simp [addFlags, BitVec.msb_eq_toInt, toInt_addWith]

theorem addFlags_v_iff (hn : 0 < n) (a b : BitVec n) (c : Bool) :
    (addFlags a b c).v = true ↔ ¬ SignedFits n (a.toInt + b.toInt + c.toNat) := by
  obtain ⟨ha, ha'⟩ := signedFits_toInt a
  obtain ⟨hb, hb'⟩ := signedFits_toInt b
  have hc := Bool.toNat_le c
  have hhalf := two_pow_eq_two_mul_half hn
  rw [addFlags_v_iff_signs]
  exact wrapped_sign_differs_iff hn (by omega) (by omega) (fun _ => by omega)
    (fun _ => by unfold SignedFits; omega)

/-! ### Subtraction -/

theorem toNat_subWith (a b : BitVec n) (c : Bool) :
    ((subWith a b c).toNat : Int) = ((a.toNat : Int) - b.toNat - c.toNat) % 2 ^ n := by
  have hpos : (0 : Int) < 2 ^ n := by positivity
  simp [subWith, BitVec.toNat_ofInt, Int.emod_nonneg _ hpos.ne']

theorem toInt_subWith (a b : BitVec n) (c : Bool) :
    (subWith a b c).toInt = (a.toInt - b.toInt - c.toNat).bmod (2 ^ n) := by
  rw [subWith, ← BitVec.toInt_ofInt]
  simp [Int.sub_eq_add_neg, BitVec.ofInt_add, BitVec.ofInt_neg]

theorem subFlags_n_iff (a b : BitVec n) (c : Bool) : (subFlags a b c).n = true ↔ (subWith a b c).toInt < 0 := by
  simp [subFlags, BitVec.msb_eq_toInt]

theorem subFlags_z_iff (a b : BitVec n) (c : Bool) : (subFlags a b c).z = true ↔ (subWith a b c).toNat = 0 := by
  simp [subFlags, ← BitVec.toNat_inj]

theorem subFlags_c_iff (a b : BitVec n) (c : Bool) :
    (subFlags a b c).c = true ↔ (a.toNat : Int) - b.toNat - c.toNat < 0 :=
  decide_eq_true_iff.trans (by omega)

/-- V is set when operands of different signs give a result whose sign is not the minuend's. -/
theorem subFlags_v_iff_signs (a b : BitVec n) (c : Bool) :
    (subFlags a b c).v = true ↔
      ¬ (a.toInt < 0 ↔ b.toInt < 0) ∧ ¬ ((a.toInt - b.toInt - c.toNat).bmod (2 ^ n) < 0 ↔ a.toInt < 0) := by
  simp [subFlags, BitVec.msb_eq_toInt, toInt_subWith]

theorem subFlags_v_iff (hn : 0 < n) (a b : BitVec n) (c : Bool) :
    (subFlags a b c).v = true ↔ ¬ SignedFits n (a.toInt - b.toInt - c.toNat) := by
  obtain ⟨ha, ha'⟩ := signedFits_toInt a
  obtain ⟨hb, hb'⟩ := signedFits_toInt b
  have hc := Bool.toNat_le c
  have hhalf := two_pow_eq_two_mul_half hn
  rw [subFlags_v_iff_signs]
  exact wrapped_sign_differs_iff hn (by omega) (by omega) (fun _ => by omega)
    (fun _ => by unfold SignedFits; omega)

/-- Settles O27: each conjunct is the lemma of its flag, at a size that has bits. -/
theorem arithmeticFlagsInNumbers : Obligations.ArithmeticFlagsInNumbers := by
  intro sz a b c
  exact
    ⟨⟨toNat_addWith a b c, addFlags_n_iff a b c, addFlags_z_iff a b c, addFlags_c_iff a b c,
        addFlags_v_iff (bits_pos sz) a b c⟩,
      toNat_subWith a b c, subFlags_n_iff a b c, subFlags_z_iff a b c, subFlags_c_iff a b c,
        subFlags_v_iff (bits_pos sz) a b c⟩

end Sys2Proof.Machine

end ArithmeticFlags

/-! ## Decoding an encoding

The decoder reads back what the encoder wrote, with any bytes after it (30_encoding.md R80 to R98). The encoder builds a byte
from a code and a field, so the first part reads such a byte back; the second reads EA fields, the third the OP field after
one, the fourth the special formats. -/

section Encoding

namespace Sys2Proof

/-! ### The fields of a byte -/

theorem toNat_byteReg (p : BitVec 5) (r : Reg) : (byteReg p r).toNat = 8 * p.toNat + r.val := by
  have h : (byteReg p r).toNat = p.toNat <<< 3 ||| r.val := BitVec.toNat_append p (BitVec.ofFin (w := 3) r)
  rw [h, ← Nat.shiftLeft_add_eq_or_of_lt r.isLt, Nat.shiftLeft_eq]
  omega

theorem toNat_byteNibble (p k : BitVec 4) : (byteNibble p k).toNat = 16 * p.toNat + k.toNat := by
  have h : (byteNibble p k).toNat = p.toNat <<< 4 ||| k.toNat := BitVec.toNat_append p k
  rw [h, ← Nat.shiftLeft_add_eq_or_of_lt k.isLt, Nat.shiftLeft_eq]
  omega

theorem opField_eq (b : Byte) : opField b = b.toNat / 8 := by
  have := b.isLt
  simp only [opField, BitVec.extractLsb'_toNat, Nat.shiftRight_eq_div_pow]
  omega

theorem regField_val (b : Byte) : (regField b).val = b.toNat % 8 := by
  simp [regField]

theorem toNat_nibbleField (b : Byte) : (nibbleField b).toNat = b.toNat % 16 := by
  simp [nibbleField]

theorem toNat_highNibble (b : Byte) : (b.extractLsb' 4 4).toNat = b.toNat / 16 := by
  have := b.isLt
  simp only [BitVec.extractLsb'_toNat, Nat.shiftRight_eq_div_pow]
  omega

@[simp] theorem opField_byteReg (p : BitVec 5) (r : Reg) : opField (byteReg p r) = p.toNat := by
  rw [opField_eq, toNat_byteReg]
  omega

@[simp] theorem regField_byteReg (p : BitVec 5) (r : Reg) : regField (byteReg p r) = r := by
  apply Fin.ext
  rw [regField_val, toNat_byteReg]
  omega

@[simp] theorem nibbleField_byteNibble (p k : BitVec 4) : nibbleField (byteNibble p k) = k := by
  apply BitVec.eq_of_toNat_eq
  rw [toNat_nibbleField, toNat_byteNibble]
  omega

/-- The highest bit of the four-bit field lies in the operation code. -/
theorem opField_byteNibble (p k : BitVec 4) : opField (byteNibble p k) = 2 * p.toNat + k.toNat / 8 := by
  rw [opField_eq, toNat_byteNibble]
  omega

/-- The number of a control register reads back (10_state.md R32). -/
@[simp] theorem ctlField_byteReg (p : BitVec 5) (cr : CtlReg) : ctlField (byteReg p cr.code) = cr := by
  have h : ((byteReg p cr.code).extractLsb' 0 3).toNat = cr.code.val := congrArg Fin.val (regField_byteReg p cr.code)
  unfold ctlField
  rw [h]
  cases cr <;> rfl

/-- A 16-bit quantity reads back (R87). -/
@[simp] theorem next16_bytes16 (v : Word) (bs : List Byte) (k : Word → List Byte → Decoded) :
    next16 (bytes16 v ++ bs) k = k v bs := congrArg (k · bs) (Machine.word_of_bytes v)

/-! ### EA fields -/

theorem decode_memEa (sz : Size) (m : MemEa) (bs : List Byte) :
    decode (m.encode sz ++ bs) = opAfter sz (.mem m) bs := by
  cases m with
  | ind r => cases sz <;> fin_cases r <;> rfl
  | disp8 r d => cases sz <;> fin_cases r <;> rfl
  | disp16 r d =>
    have hfirst : decode (eaByte 0b1111 sz r :: (bytes16 d ++ bs)) =
        next16 (bytes16 d ++ bs) fun d bs => opAfter sz (.mem (.disp16 r d)) bs := by
      cases sz <;> fin_cases r <;> rfl
    exact hfirst.trans (next16_bytes16 d bs _)
  | preDec r => cases sz <;> fin_cases r <;> rfl
  | postInc r => cases sz <;> fin_cases r <;> rfl
  | abs8 a => cases sz <;> rfl
  | abs16 a =>
    have hfirst : decode (eaByte 0b0001 sz 5 :: (bytes16 a ++ bs)) =
        next16 (bytes16 a ++ bs) fun a bs => opAfter sz (.mem (.abs16 a)) bs := by
      cases sz <;> rfl
    exact hfirst.trans (next16_bytes16 a bs _)

theorem decode_regEa (sz : Size) (r : Reg) (bs : List Byte) :
    decode (eaByte 0b1010 sz r :: bs) = opAfter sz (.reg r) bs := by
  cases sz <;> fin_cases r <;> rfl

/-- An immediate EA field gives its own size (R82). -/
theorem decode_immEa (i : ImmEa) (bs : List Byte) : decode (i.encode ++ bs) = opAfter i.size (.imm i) bs := by
  cases i with
  | imm8 v => rfl
  | imm16 v => exact next16_bytes16 v bs fun v bs => opAfter .word (.imm (.imm16 v)) bs

theorem decode_srcEa {sz : Size} {src : SrcEa} (hfits : src.fits sz = true) (bs : List Byte) :
    decode (src.encode sz ++ bs) = opAfter sz src bs := by
  cases src with
  | reg r => exact decode_regEa sz r bs
  | mem m => exact decode_memEa sz m bs
  | imm i =>
    obtain rfl : i.size = sz := by simpa [SrcEa.fits] using hfits
    exact decode_immEa i bs

/-- A destination as the source operand the decoder reads its EA field as. -/
def DstEa.toSrc : DstEa → SrcEa
  | .reg r => .reg r
  | .mem m => .mem m

theorem decode_dstEa (sz : Size) (dst : DstEa) (bs : List Byte) :
    decode (dst.encode sz ++ bs) = opAfter sz dst.toSrc bs := by
  cases dst with
  | reg r => exact decode_regEa sz r bs
  | mem m => exact decode_memEa sz m bs

/-! ### The OP field

An OP byte from 08 up is looked up in the groups of its EA class in turn; the groups share no code. -/

theorem opAfter_reg {op : Byte} (h : 8 ≤ op.toNat) (sz : Size) (r : Reg) (bs : List Byte) :
    opAfter sz (.reg r) (op :: bs) =
      opResult sz (.reg r) bs ((opSource sz (.reg r) op).or ((opRegOnly sz r op).or (opDest sz (.reg r) op))) :=
  if_neg (by rintro rfl; contradiction)

theorem opAfter_mem {op : Byte} (h : 8 ≤ op.toNat) (sz : Size) (m : MemEa) (bs : List Byte) :
    opAfter sz (.mem m) (op :: bs) =
      if opField op = 0b10010 then .instr (.movGStore sz (regField op) m) bs
      else opResult sz (.mem m) bs ((opSource sz (.mem m) op).or (opDest sz (.mem m) op)) := by
  simp only [opAfter, next8, opAfterMem]
  split
  any_goals omega
  rfl

theorem opSource_codes {sz : Size} {ea : SrcEa} {op : Byte} {i : Instr} (h : opSource sz ea op = some i) :
    4 ≤ opField op ∧ opField op ≤ 8 ∨ opField op = 10 ∨ opField op = 12 ∨ opField op = 14 ∨ opField op = 16 ∨
      opField op = 17 ∨ 20 ≤ opField op ∧ opField op ≤ 23 := by
  unfold opSource at h
  split at h <;> simp_all

theorem opFixed_codes {sz : Size} {dst : DstEa} {op : Byte} {i : Instr} (h : opFixed sz dst op = some i) :
    8 ≤ op.toNat ∧ op.toNat < 16 ∨ 19 ≤ op.toNat ∧ op.toNat < 32 := by
  unfold opFixed at h
  split at h <;> simp_all

theorem opDest_codes {sz : Size} {dst : DstEa} {op : Byte} {i : Instr} (h : opDest sz dst op = some i) :
    8 ≤ op.toNat ∧ op.toNat < 16 ∨ 19 ≤ op.toNat ∧ op.toNat < 32 ∨ opField op = 9 ∨ opField op = 11 ∨ opField op = 13 ∨
      opField op = 15 ∨ opField op = 19 ∨ 24 ≤ opField op := by
  unfold opDest at h
  split at h
  any_goals simp_all
  exact (opFixed_codes h).imp_right .inl

theorem opRegOnly_codes {sz : Size} {r : Reg} {op : Byte} {i : Instr} (h : opRegOnly sz r op = some i) :
    16 ≤ op.toNat ∧ op.toNat < 19 ∨ opField op = 18 := by
  unfold opRegOnly at h
  split at h
  · split at h <;> simp_all
  · exact .inr ‹_›
  · cases h

theorem opImmOnly_codes {j : ImmEa} {op : Byte} {i : Instr} (h : opImmOnly j op = some i) :
    opField op = 9 ∨ opField op = 11 ∨ opField op = 13 := by
  unfold opImmOnly at h
  split at h <;> simp_all

/-- A byte that is no code of the source operations. -/
theorem opSource_eq_none {sz : Size} {ea : SrcEa} {op : Byte}
    (h : opField op < 4 ∨ opField op = 9 ∨ opField op = 11 ∨ opField op = 13 ∨ opField op = 15 ∨ opField op = 18 ∨
      opField op = 19 ∨ 24 ≤ opField op) : opSource sz ea op = none := by
  refine Option.eq_none_iff_forall_ne_some.2 fun i hi => ?_
  have := opSource_codes hi
  omega

theorem opAfter_of_opSource {sz : Size} {ea : SrcEa} {op : Byte} {i : Instr} (h : opSource sz ea op = some i)
    (bs : List Byte) : opAfter sz ea (op :: bs) = .instr i bs := by
  have hcodes := opSource_codes h
  have hfield := opField_eq op
  cases ea with
  | reg r => rw [opAfter_reg (by omega), h]; rfl
  | mem m => rw [opAfter_mem (by omega), if_neg (by omega), h]; rfl
  | imm j => exact congrArg (fun o : Option Instr => opResult sz (.imm j) bs (o.or (opImmOnly j op))) h

theorem opAfter_of_opDest {sz : Size} {dst : DstEa} {op : Byte} {i : Instr} (h : opDest sz dst op = some i)
    (bs : List Byte) : opAfter sz dst.toSrc (op :: bs) = .instr i bs := by
  have hcodes := opDest_codes h
  have hfield := opField_eq op
  have hsource (ea : SrcEa) : opSource sz ea op = none := opSource_eq_none (by omega)
  cases dst with
  | reg r =>
    have hreg : opRegOnly sz r op = none := by
      refine Option.eq_none_iff_forall_ne_some.2 fun j hj => ?_
      have := opRegOnly_codes hj
      omega
    rw [DstEa.toSrc, opAfter_reg (by omega), hsource, hreg, h]
    rfl
  | mem m =>
    rw [DstEa.toSrc, opAfter_mem (by omega), if_neg (by omega), hsource, h]
    rfl

theorem opAfter_of_opRegOnly {sz : Size} {r : Reg} {op : Byte} {i : Instr} (h : opRegOnly sz r op = some i)
    (bs : List Byte) : opAfter sz (.reg r) (op :: bs) = .instr i bs := by
  have hcodes := opRegOnly_codes h
  have hfield := opField_eq op
  rw [opAfter_reg (by omega), opSource_eq_none (by omega), h]
  rfl

theorem opAfter_of_opImmOnly {j : ImmEa} {op : Byte} {i : Instr} (h : opImmOnly j op = some i) (bs : List Byte) :
    opAfter j.size (.imm j) (op :: bs) = .instr i bs := by
  have hcodes := opImmOnly_codes h
  have hsource : opSource j.size (.imm j) op = none := opSource_eq_none (by omega)
  simp [opAfter, next8, opAfterImm, hsource, h, opResult]

theorem opAfter_movGStore (sz : Size) (r : Reg) (m : MemEa) (bs : List Byte) :
    opAfter sz (.mem m) (byteReg 0b10010 r :: bs) = .instr (.movGStore sz r m) bs := by
  have hge : 8 ≤ (byteReg 0b10010 r).toNat := by rw [toNat_byteReg]; simp; omega
  rw [opAfter_mem hge, if_pos (by simp), regField_byteReg]

/-! ### The general format -/

theorem decode_sourceOp {sz : Size} {src : SrcEa} {op : Byte} {i : Instr} (hfits : src.fits sz = true)
    (hop : opSource sz src op = some i) (bs : List Byte) : decode ((src.encode sz ++ [op]) ++ bs) = .instr i bs := by
  rw [List.append_assoc, decode_srcEa hfits]
  exact opAfter_of_opSource hop bs

theorem decode_destOp {sz : Size} {dst : DstEa} {op : Byte} {i : Instr} (hop : opDest sz dst op = some i)
    (bs : List Byte) : decode ((dst.encode sz ++ [op]) ++ bs) = .instr i bs := by
  rw [List.append_assoc, decode_dstEa]
  exact opAfter_of_opDest hop bs

theorem decode_memOp {sz : Size} {m : MemEa} {tail : List Byte} {i : Instr} {bs : List Byte}
    (htail : opAfter sz (.mem m) (tail ++ bs) = .instr i bs) : decode ((m.encode sz ++ tail) ++ bs) = .instr i bs := by
  rw [List.append_assoc, decode_memEa, htail]

theorem decode_regOp {sz : Size} {r : Reg} {tail : List Byte} {i : Instr} {bs : List Byte}
    (htail : opAfter sz (.reg r) (tail ++ bs) = .instr i bs) :
    decode ((eaByte 0b1010 sz r :: tail) ++ bs) = .instr i bs := (decode_regEa sz r _).trans htail

theorem decode_immOp {imm : ImmEa} {tail : List Byte} {i : Instr} {bs : List Byte}
    (htail : opAfter imm.size (.imm imm) (tail ++ bs) = .instr i bs) : decode ((imm.encode ++ tail) ++ bs) = .instr i bs := by
  rw [List.append_assoc, decode_immEa, htail]

/-! ### The special formats -/

/-- A first byte of a short format is no EA byte and no first byte of another special format (R97). -/
theorem decode_short {b : Byte} (hlo : 0x40 ≤ b.toNat) (hhi : b.toNat < 0xA0) (bs : List Byte) :
    decode (b :: bs) = decodeShort b bs := by
  have hnib := toNat_highNibble b
  have hgeneral : decodeGeneral b bs = none := by
    unfold decodeGeneral
    split
    any_goals omega
    dsimp only
    split
    any_goals omega
    rfl
  have hspecial : decodeSpecial b bs = decodeShort b bs := by
    unfold decodeSpecial
    split
    any_goals omega
    split
    any_goals omega
    rfl
  simp [decode, next8, hgeneral, hspecial]

theorem decode_byteReg {p : BitVec 5} (hlo : 8 ≤ p.toNat) (hhi : p.toNat < 20) (r : Reg) (bs : List Byte) :
    decode (byteReg p r :: bs) = decodeShort (byteReg p r) bs := by
  have h := toNat_byteReg p r
  exact decode_short (by omega) (by omega) bs

/-- A fixed head and a 16-bit quantity. -/
theorem decode_with16 {head : List Byte} {i : Word → Instr} (h : ∀ bs, decode (head ++ bs) = with16 bs i) (v : Word)
    (bs : List Byte) : decode ((head ++ bytes16 v) ++ bs) = .instr (i v) bs := by
  rw [List.append_assoc, h]
  exact next16_bytes16 v bs _

theorem decode_trapa (v : BitVec 4) (bs : List Byte) :
    decode (0x08 :: byteNibble 0b0001 v :: bs) = .instr (.trapa v) bs := by
  have hhigh : ((byteNibble 0b0001 v).extractLsb' 4 4).toNat = 1 := by
    rw [toNat_highNibble, toNat_byteNibble]
    simp
    omega
  change decodeTrapa (byteNibble 0b0001 v :: bs) = _
  rw [decodeTrapa, next8, if_pos hhigh, nibbleField_byteNibble]

/-! ### Every instruction -/

/-- The decoder reads back every encoding, with any bytes after it: one line per form of the encoder's table. -/
theorem decode_encode (i : Instr) (bs : List Byte) (h : WellFormed i) : decode (encode i ++ bs) = .instr i bs := by
  cases i with
  | eaRn sz => exact decode_regOp (by cases sz <;> rfl)
  | eaInd sz | eaDisp8 sz | eaDisp16 sz | eaPreDec sz | eaPostInc sz | eaAbs8 sz | eaAbs16 sz =>
    exact decode_memOp (by cases sz <;> rfl)
  | eaImm8 | eaImm16 => exact decode_immOp rfl
  | movGLoad | addG | adds | addx | sub | subs | subx | mulxu | divxu | cmpG | and | or | xor | ldc =>
    exact decode_sourceOp h (by simp [opSource]) bs
  | addQ1 | addQ2 | addQm1 | addQm2 | tst | neg | clr | tas | not | shal | shar | shll | shlr | rotl | rotr | rotxl
  | rotxr => exact decode_destOp rfl bs
  | bsetReg | bclrReg | bnotReg | btstReg | stc => exact decode_destOp (by simp [opDest]) bs
  | bsetImm sz k | bclrImm sz k | bnotImm sz k | btstImm sz k =>
    have hbit : k.toNat / 8 = 0 ∨ k.toNat / 8 = 1 := by omega
    rcases hbit with hk | hk <;> exact decode_destOp (by simp [opDest, opField_byteNibble, hk]) bs
  | andc | orc | xorc => exact decode_immOp (opAfter_of_opImmOnly (by simp [opImmOnly]) bs)
  | movGStore sz r m => exact decode_memOp (opAfter_movGStore sz r m bs)
  | movGImm8 | cmpGImm8 => exact decode_memOp rfl
  | movGImm16 v m => exact decode_memOp (next16_bytes16 v bs fun v bs => .instr (.movGImm16 v m) bs)
  | cmpGImm16 v m => exact decode_memOp (next16_bytes16 v bs fun v bs => .instr (.cmpGImm16 v m) bs)
  | movtpe | movfpe => exact decode_memOp (by simp [opAfter, next8, opAfterMem, opMem00, opResult])
  | dadd | dsub => exact decode_regOp (by simp [opAfter, next8, opAfterReg, opReg00, opResult])
  | swap | exts | extu => exact decode_regOp (opAfter_of_opRegOnly rfl bs)
  | xch => exact decode_regOp (opAfter_of_opRegOnly (by simp [opRegOnly]) bs)
  | movE | movLB | movLW | movSB | movSW | movFLoadB | movFLoadW | movFStoreB | movFStoreW | cmpE =>
    simp [encode, decode_byteReg, decodeShort, with8, next8]
  | movI | cmpI => simp [encode, decode_byteReg, decodeShort, with16]
  | bra16 | brn16 | bhi16 | bls16 | bcc16 | bcs16 | bne16 | beq16 | bvc16 | bvs16 | bpl16 | bmi16 | bge16 | blt16 | bgt16
  | ble16 | jmpAbs | bsr16 | jsrAbs | rtd16 | link16 => exact decode_with16 (head := [_]) (fun _ => rfl) _ bs
  | pjmpAbs | pjsrAbs | prtd16 => exact decode_with16 (head := [_, _]) (fun _ => rfl) _ bs
  | jmpDisp16 n | jsrDisp16 n => exact decode_with16 (head := [_, _]) (fun _ => by fin_cases n <;> rfl) _ bs
  | jmpInd n | jsrInd n | pjmpInd n | pjsrInd n | jmpDisp8 n | jsrDisp8 n | scbF n | scbNe n | scbEq n =>
    fin_cases n <;> rfl
  | trapa v => exact decode_trapa v bs
  | _ => rfl

open Sys2Proof.Laws.EncodedLength in
/-- Every encoding has one to six bytes (R80), by the EA field it begins with. -/
theorem encode_length (i : Instr) : Statement i := by
  cases i with
  | movGLoad | addG | adds | addx | sub | subs | subx | mulxu | divxu | cmpG | and | or | xor | ldc =>
    exact of_field rfl (src_length _ _) (Nat.le_of_ble_eq_true rfl)
  | addQ1 | addQ2 | addQm1 | addQm2 | tst | neg | clr | tas | not | shal | shar | shll | shlr | rotl | rotr | rotxl
  | rotxr | bsetReg | bclrReg | bnotReg | btstReg | stc | bsetImm | bclrImm | bnotImm | btstImm =>
    exact of_field rfl (dst_length _ _) (Nat.le_of_ble_eq_true rfl)
  | movGStore | movGImm8 | cmpGImm8 | movGImm16 | cmpGImm16 | movtpe | movfpe =>
    exact of_field rfl (mem_length _ _) (Nat.le_of_ble_eq_true rfl)
  | andc | orc | xorc => exact of_field rfl (imm_length _) (Nat.le_of_ble_eq_true rfl)
  | _ => exact of_length rfl (Nat.le_of_ble_eq_true rfl) (Nat.le_of_ble_eq_true rfl)

end Sys2Proof

end Encoding

/-! ## Reset and loading

The reset state and the reset sequence (10_state.md R37, 70_reset_and_hazards.md R330), and the instruction bytes that are
supplied at PC. -/

section ResetAndLoading

namespace Sys2Proof.Machine

theorem fetchAddr_lt (s : State) (off : Nat) : (fetchAddr s off).toNat < s.mode.addressSpace := phys_lt s .code _

/-- Supplying code keeps consistency: every byte goes to an address of the code space. -/
theorem State.inv_supplyCode (bs : List Byte) (s : State) (off : Nat) (h : s.Inv) : (s.supplyCode off bs).Inv := by
  induction bs generalizing s off with
  | nil => exact h
  | cons v rest ih => exact ih _ _ (s.inv_supplyByte _ v (fetchAddr_lt s off) h)

/-- Settles O10: the reset state by evaluation, a loaded instruction byte by byte. -/
theorem resetIsConsistent : Obligations.ResetIsConsistent := by
  refine ⟨by decide, fun s nbits w h => ?_⟩
  exact State.inv_supplyCode _ _ _ (State.inv_congr rfl rfl rfl h)

/-- The vector table lies in page 0 in both modes (20_memory.md R53). -/
theorem phys_vector (s : State) (a : Word) : phys s .vector a = a.setWidth 24 := by
  unfold phys
  cases s.mode with
  | min => rfl
  | max => exact (BitVec.setWidth_eq_append (by decide)).symm

/-- The state in which the reset sequence reads its vector: the unspecified registers scrambled, T clear, the mask 7. -/
def State.afterScramble (s : State) : State := s.scramble.setSr { s.scramble.sr with t := false, imask := 7 }

@[simp] theorem State.afterScramble_mode (s : State) : s.afterScramble.mode = s.mode := rfl
@[simp] theorem State.afterScramble_wordAt (s : State) (a : Addr) : s.afterScramble.wordAt a = s.wordAt a := rfl

/-- The reset sequence is the reading of vector 0 from there, then normal running. -/
theorem resetSequence_of_vector {s t : State} (h : loadVector Config.vecReset s.afterScramble = .ok t) :
    resetSequence s = .ok (t.setRunState .running) := by
  change (inEntry (loadVector Config.vecReset s.afterScramble) >>= fun s3 => pure (s3.setRunState .running)) = _
  rw [h]
  rfl

theorem resetSequence_min {s : State} {pc : Word} (hm : s.mode = .min) (hpc : s.wordAt 0 = some pc) :
    resetSequence s = .ok ((s.afterScramble.setPc pc).setRunState .running) :=
  resetSequence_of_vector (loadVector_min hm (by simpa [phys_vector, Config.vecReset] using hpc))

theorem resetSequence_max {s : State} {hi pc : Word} (hm : s.mode = .max) (hhi : s.wordAt 0 = some hi)
    (hpc : s.wordAt 2 = some pc) :
    resetSequence s = .ok (((s.afterScramble.setCp (hi.extractLsb' 0 8)).setPc pc).setRunState .running) :=
  resetSequence_of_vector (loadVector_max hm (by simpa [phys_vector, Config.vecReset] using hhi)
    (by simpa [phys_vector, Config.vecReset] using hpc))

/-- Settles O58: what `resetSequence_min` and `resetSequence_max` answer, field by field. -/
theorem resetValues : Obligations.ResetValues := by
  refine ⟨rfl, rfl, rfl, fun s pc hi => ⟨fun hm hpc => ?_, fun hm hhi hpc => ?_⟩⟩
  · exact ⟨_, resetSequence_min hm hpc, rfl, rfl, rfl, rfl, rfl, fun _ _ => rfl⟩
  · exact ⟨_, resetSequence_max hm hhi hpc, rfl, rfl, rfl, rfl, rfl, rfl, fun _ _ => rfl⟩

end Sys2Proof.Machine

end ResetAndLoading

/-! ## A step

What a step does in normal running, and the induction principle for what every step keeps. -/

section Steps

namespace Sys2Proof.Machine

/-- In the power-down state a step changes nothing (60_exceptions.md R315). -/
theorem step_powerDown {s : State} (h : s.runState = .powerDown) : step s = .next s := by
  simp [step, h]

theorem fetchInstr_of_decode {s : State} {i : Instr} {rest : List Byte} (h : decode (fetchWindow s) = .instr i rest) :
    fetchInstr s = .ok (i, s.setPc (s.pc + BitVec.ofNat 16 ((fetchWindow s).length - rest.length))) := by
  simp [fetchInstr, h]

theorem step_of_fetch {s s1 : State} {i : Instr} (hrun : s.runState = .running) (h : fetchInstr s = .ok (i, s1)) :
    step s = traceAfter s.sr.t (exec i s1) := by
  simp [step, hrun, h]

/-- Settles O6: the decoded instruction is what is fetched. -/
theorem stepRunsDecodedInstruction : Obligations.StepRunsDecodedInstruction :=
  fun _ _ _ hrun hdec => step_of_fetch hrun (fetchInstr_of_decode hdec)

@[simp] theorem traceAfter_false (o : Outcome) : traceAfter false o = o := by
  cases o <;> rfl

/-- Bytes that can be fetched one by one are the start of what is fetched together. -/
theorem fetchBytes_eq_append {s : State} (bs : List Byte) {n off : Nat} (hlen : bs.length ≤ n)
    (h : ∀ (k : Nat) (hk : k < bs.length), fetchByte s (off + k) = .ok bs[k]) :
    ∃ rest, fetchBytes s off n = bs ++ rest := by
  induction bs generalizing n off with
  | nil => exact ⟨_, rfl⟩
  | cons b bs ih =>
    obtain ⟨m, rfl⟩ : ∃ m, n = m + 1 := Nat.exists_eq_succ_of_ne_zero (by rintro rfl; simp at hlen)
    have hfirst : fetchByte s off = .ok b := h 0 (by simp)
    have hrest (k : Nat) (hk : k < bs.length) : fetchByte s (off + 1 + k) = .ok bs[k] := by
      rw [Nat.add_right_comm, Nat.add_assoc]
      exact h (k + 1) (by simpa using hk)
    obtain ⟨rest, hbytes⟩ := ih (by simpa using hlen) hrest
    exact ⟨rest, by simp [fetchBytes, hfirst, hbytes]⟩

/-- A well-formed instruction whose encoding can be fetched at PC is the one fetched, with PC past exactly its bytes. -/
theorem fetchInstr_of_encode {s : State} {i : Instr} (hwf : WellFormed i)
    (h : ∀ (k : Nat) (hk : k < (encode i).length), fetchByte s k = .ok (encode i)[k]) :
    fetchInstr s = .ok (i, s.setPc (s.pc + BitVec.ofNat 16 (encode i).length)) := by
  obtain ⟨rest, hwindow⟩ : ∃ rest, fetchWindow s = encode i ++ rest :=
    fetchBytes_eq_append (encode i) (encode_length i).2 (by simpa using h)
  have hdec : decode (fetchWindow s) = .instr i rest := by rw [hwindow, decode_encode i rest hwf]
  rw [fetchInstr_of_decode hdec, hwindow, List.length_append, Nat.add_sub_cancel]

/-- Settles O7: the encoding is what is fetched, and with T clear no exception follows. -/
theorem stepRunsEncodedInstruction : Obligations.StepRunsEncodedInstruction := by
  intro s i hrun ht hwf hfetch
  rw [step_of_fetch hrun (fetchInstr_of_encode hwf hfetch), ht, traceAfter_false]

/-- What a step in normal running that goes on did: it executed a fetched instruction or entered InvalidInstruction, and then
took the trace exception if T was set. -/
theorem step_running_next {s t : State} (hrun : s.runState = .running) (h : step s = .next t) :
    ∃ u, ((∃ pc i, exec i (s.setPc pc) = .next u) ∨ raiseInvalidInstruction s = .ok u) ∧
      (t = u ∨ takeException Config.vecTrace u.pc u = .ok t) := by
  simp only [step, hrun] at h
  obtain ⟨u, hu, ht⟩ := traceAfter_next h
  refine ⟨u, ?_, ht.imp And.right And.right⟩
  cases hf : fetchInstr s with
  | ok p =>
    obtain ⟨i, s1⟩ := p
    obtain ⟨pc, rfl⟩ := fetchInstr_ok hf
    exact .inl ⟨pc, i, by simpa [hf] using hu⟩
  | error o => exact .inr (fetchInstr_next (by simpa [hf] using hu))

/-- A relation that is reflexive, composes, and holds over every elementary change and over the entry of SLEEP into the
power-down state holds over every instruction. -/
theorem exec_induct {P : State → State → Prop} (hr : ∀ s, P s s) (ht : ∀ s t u, P s t → P t u → P s u)
    (hc : ∀ k s t, Change k s t → P s t) (hsleep : ∀ s, P s (s.setRunState .powerDown)) {i : Instr} {s t : State}
    (h : exec i s = .next t) : P s t := by
  by_cases hi : i = .sleep
  · subst hi
    cases h
    exact hsleep s
  · exact (exec_reach i s t hi h).induct hr ht (hc _)

/-- Such a relation holds over every step. -/
theorem step_induct {P : State → State → Prop} (hr : ∀ s, P s s) (ht : ∀ s t u, P s t → P t u → P s u)
    (hc : ∀ k s t, Change k s t → P s t) (hsleep : ∀ s, P s (s.setRunState .powerDown)) {s t : State}
    (h : step s = .next t) : P s t := by
  cases hrun : s.runState with
  | powerDown =>
    rw [step_powerDown hrun] at h
    cases h
    exact hr s
  | running =>
    obtain ⟨u, hu, htrace⟩ := step_running_next hrun h
    have hsu : P s u := by
      rcases hu with ⟨pc, i, hexec⟩ | hinvalid
      · exact ht _ _ _ (hc true _ _ (.pc s pc)) (exec_induct hr ht hc hsleep hexec)
      · exact (reach_raiseInvalidInstruction (k := true) hinvalid).induct hr ht (hc _)
    rcases htrace with rfl | htaken
    · exact hsu
    · exact ht _ _ _ hsu ((reach_takeException (k := true) htaken).induct hr ht (hc _))

/-- The mode is kept, and in minimum mode CP is. -/
def KeepsMode (s t : State) : Prop := t.mode = s.mode ∧ (s.mode = .min → t.cp = s.cp)

theorem KeepsMode.refl (s : State) : KeepsMode s s := ⟨rfl, fun _ => rfl⟩

theorem KeepsMode.trans (s t u : State) (h1 : KeepsMode s t) (h2 : KeepsMode t u) : KeepsMode s u :=
  ⟨h2.1.trans h1.1, fun hm => (h2.2 (h1.1.trans hm)).trans (h1.2 hm)⟩

/-- The one elementary change that writes CP is made in maximum mode only. -/
theorem Change.keepsMode (k : Bool) (s t : State) (c : Change k s t) : KeepsMode s t := by
  refine ⟨c.mode_eq, fun hmin => ?_⟩
  cases c with
  | cp v hmax => exact absurd (hmin.symm.trans hmax) (by decide)
  | _ => rfl

/-- Settles O11: every change a step is made of keeps the mode. -/
theorem stepKeepsMode : Obligations.StepKeepsMode := fun _ _ h =>
  step_induct (P := KeepsMode) KeepsMode.refl KeepsMode.trans Change.keepsMode (fun _ => ⟨rfl, fun _ => rfl⟩) h

end Sys2Proof.Machine

end Steps

/-! ## Memory that every step keeps consistent

Consistency (20_memory.md R51, R52, R61, R67), and the marks of the bytes stored to, which a fetch refuses. -/

section StoresAndFetches

namespace Sys2Proof.Machine

/-- Only a store touches what consistency speaks of, and it stays inside the address space. -/
theorem Change.inv {k : Bool} {s t : State} (c : Change k s t) (h : s.Inv) : t.Inv := by
  cases c with
  | store a v ha => exact s.inv_storeByte a v ha h
  | _ => exact State.inv_congr rfl rfl rfl h

/-- Settles O9: every change a step is made of keeps consistency. -/
theorem stepKeepsConsistency : Obligations.StepKeepsConsistency := fun _ _ hinv hstep =>
  step_induct (P := fun s t => s.Inv → t.Inv) (fun _ => id) (fun _ _ _ h1 h2 => h2 ∘ h1) (fun _ _ _ c => c.inv)
    (fun _ => State.inv_congr rfl rfl rfl) hstep hinv

/-- No mark is lost, and every byte that differs is marked as stored to (20_memory.md R67). -/
def MarksChanges (s t : State) : Prop :=
  (∀ a ∈ s.stored, a ∈ t.stored) ∧ ∀ a : Addr, t.byteAt a ≠ s.byteAt a → a.toNat ∈ t.stored

theorem MarksChanges.of_same {s t : State} (hstored : t.stored = s.stored) (hmem : t.mem = s.mem) : MarksChanges s t :=
  ⟨fun _ ha => hstored ▸ ha, fun a ha => absurd (congrArg (·.read a.toNat) hmem) ha⟩

theorem MarksChanges.trans (s t u : State) (h1 : MarksChanges s t) (h2 : MarksChanges t u) : MarksChanges s u := by
  refine ⟨fun a ha => h2.1 a (h1.1 a ha), fun a ha => ?_⟩
  by_cases hlast : u.byteAt a = t.byteAt a
  · exact h2.1 _ (h1.2 a (hlast ▸ ha))
  · exact h2.2 a hlast

theorem marksChanges_storeByte (s : State) (a : Addr) (v : Byte) : MarksChanges s (s.storeByte a v) := by
  refine ⟨fun x hx => (s.mem_stored_storeByte a v x).2 (.inr hx), fun b hb => (s.mem_stored_storeByte a v _).2 (.inl ?_)⟩
  by_contra hne
  exact hb (by rw [State.byteAt_storeByte, if_neg fun h => hne (congrArg _ h)])

theorem Change.marksChanges (k : Bool) (s t : State) (c : Change k s t) : MarksChanges s t := by
  cases c with
  | store a v _ => exact marksChanges_storeByte s a v
  | _ => exact .of_same rfl rfl

theorem exec_marksChanges {i : Instr} {s t : State} (h : exec i s = .next t) : MarksChanges s t :=
  exec_induct (fun _ => .of_same rfl rfl) MarksChanges.trans Change.marksChanges (fun _ => .of_same rfl rfl) h

/-! ### Fetches that are refused -/

theorem fetchByte_stored {s : State} {off : Nat} (h : (fetchAddr s off).toNat ∈ s.stored) :
    fetchByte s off = .error .fetchOfStoredByte := by
  simp [fetchByte, h]

theorem fetchByte_absent {s : State} {off : Nat} (hmark : (fetchAddr s off).toNat ∉ s.stored)
    (hbyte : s.byteAt (fetchAddr s off) = none) : fetchByte s off = .error .memoryNotSupplied := by
  simp [fetchByte, hmark, hbyte]

/-- Each of the bytes fetched together can be fetched alone. -/
theorem fetchByte_of_fetchBytes {s : State} {n off k : Nat} (hk : k < (fetchBytes s off n).length) :
    fetchByte s (off + k) = .ok (fetchBytes s off n)[k] := by
  induction n generalizing off k with
  | zero => cases hk
  | succ n ih =>
    cases hfirst : fetchByte s off with
    | error r => simp [fetchBytes, hfirst] at hk
    | ok v =>
      have hcons : fetchBytes s off (n + 1) = v :: fetchBytes s (off + 1) n := by simp [fetchBytes, hfirst]
      cases k with
      | zero => simpa [hcons] using hfirst
      | succ k =>
        have hk' : k < (fetchBytes s (off + 1) n).length := by simpa [hcons] using hk
        simpa [hcons, Nat.add_right_comm, Nat.add_assoc] using ih hk'

/-- The bytes before the first one that cannot be fetched are all that is fetched. -/
theorem fetchWindow_eq_of_error {s : State} {bs : List Byte} {r : Refusal} (hlen : bs.length < maxLength)
    (hbs : ∀ (k : Nat) (hk : k < bs.length), fetchByte s k = .ok bs[k]) (herr : fetchByte s bs.length = .error r) :
    fetchWindow s = bs := by
  obtain ⟨rest, hwindow⟩ : ∃ rest, fetchWindow s = bs ++ rest := fetchBytes_eq_append bs hlen.le (by simpa using hbs)
  cases rest with
  | nil => simpa using hwindow
  | cons b rest =>
    have hnext := fetchByte_of_fetchBytes (s := s) (n := maxLength) (off := 0) (k := bs.length)
      (by change _ < (fetchWindow s).length; simp [hwindow])
    rw [Nat.zero_add, herr] at hnext
    cases hnext

/-- Where the decoder asks for a byte that cannot be fetched, the step is refused. -/
theorem step_refused {s : State} {bs : List Byte} {r : Refusal} (hrun : s.runState = .running)
    (hlen : bs.length < maxLength) (hbs : ∀ (k : Nat) (hk : k < bs.length), fetchByte s k = .ok bs[k])
    (hdec : decode bs = .truncated) (herr : fetchByte s bs.length = .error r) : step s = .refused r := by
  have hwindow := fetchWindow_eq_of_error hlen hbs herr
  have hfetch : fetchInstr s = .error (.refused r) := by simp [fetchInstr, hwindow, hdec, herr]
  simp [step, hrun, hfetch, traceAfter]

/-- Settles O13: the marks through the changes an instruction is made of, the refusals through the byte the decoder asks for. -/
theorem storedBytesAreNotFetched : Obligations.StoredBytesAreNotFetched :=
  ⟨fun _ _ _ h => exec_marksChanges h,
    fun _ _ hrun hlen hbs hdec =>
      ⟨fun hmark => step_refused hrun hlen hbs hdec (fetchByte_stored hmark),
        fun hmark hbyte => step_refused hrun hlen hbs hdec (fetchByte_absent hmark hbyte)⟩,
    rfl⟩

end Sys2Proof.Machine

end StoresAndFetches

/-! ## Words and physical addresses

The order and alignment of words (20_memory.md R54, R55, R57) and the page registers (R53). -/

section WordsAndAddresses

namespace Sys2Proof.Machine

theorem writeWord_even {s : State} {a : Addr} (v : Word) (touched : Option Reg) (h : isEven a = true) :
    s.writeWord touched a v = .ok (s.storeWord a v) := if_pos h

theorem writeWord_odd (s : State) {a : Addr} (v : Word) (touched : Option Reg) (h : isEven a = false) :
    s.writeWord touched a v = .error (.addressError touched) := by
  simp [State.writeWord, h]

/-- Settles O14: the bytes of a stored word. -/
theorem wordsAreBigEndianAndAligned : Obligations.WordsAreBigEndianAndAligned := by
  refine fun s a v touched => ⟨fun heven => ?_, fun hodd => ⟨writeWord_odd s v touched hodd, readWord_odd s touched a hodd⟩⟩
  refine ⟨_, writeWord_even v touched heven, readWord_even touched heven (s.wordAt_storeWord a v), ?_, ?_, ?_⟩
  · rw [State.byteAt_storeWord, if_pos rfl]
  · rw [State.byteAt_storeWord, if_neg (addr_succ_ne a), if_pos rfl]
  · exact (framed_storeMem s .word a v).2.2

theorem toNat_phys_min {s : State} (hm : s.mode = .min) (sp : Space) (a : Word) : (phys s sp a).toNat = a.toNat := by
  simp only [phys, hm, BitVec.toNat_setWidth]
  omega

theorem toNat_phys_max {s : State} (hm : s.mode = .max) (sp : Space) (a : Word) :
    (phys s sp a).toNat = (pageOf s sp).toNat * 65536 + a.toNat := by
  simp only [phys, hm]
  rw [BitVec.toNat_append, ← Nat.shiftLeft_add_eq_or_of_lt a.isLt, Nat.shiftLeft_eq]

/-- Settles O15: in maximum mode the page is `pageOf`'s, by the register's number for a register-based access. -/
theorem pageRegistersExtendAddresses : Obligations.PageRegistersExtendAddresses := by
  refine fun s a => ⟨fun hm sp => toNat_phys_min hm sp a, fun hm => ?_⟩
  have hreg (r : Reg) : (phys s (.dataReg r) a).toNat = (regPage s r).toNat * 65536 + a.toNat := toNat_phys_max hm _ a
  have hzero {sp : Space} (hpage : pageOf s sp = 0) : (phys s sp a).toNat = a.toNat := by
    simp [toNat_phys_max hm, hpage]
  refine ⟨toNat_phys_max hm .code a, toNat_phys_max hm .abs16 a, ?_, ?_, ?_, toNat_phys_max hm .stack a, hzero rfl, hzero rfl⟩
  all_goals
    simp only [List.forall_mem_cons, hreg]
    simp [regPage]

end Sys2Proof.Machine

end WordsAndAddresses

/-! ## Operands

What an operand is in each addressing mode (20_memory.md R70), and the two ways a memory operand stops every instruction it
stands in: its mode is refused (U6, U7), or it is a word at an odd address (R57). -/

section Operands

namespace Sys2Proof.Machine

/-! ### Reading a memory operand -/

theorem fetchSource_mem {sz : Size} {other : Option Reg} {m : MemEa} {s : State} {v : BitVec sz.bits}
    (hmode : eaRefusal sz other m = none) (hread : s.readMem sz (autoBase m) (memAddr sz m s) = .ok v) :
    fetchSource sz other (.mem m) s = .ok (v, memEffect sz m s) := by
  simp only [fetchSource, locateMem_eq s hmode, bind, Except.bind, State.readOp, memEffect_readMem, hread, pure,
    Except.pure]

theorem fetchDest_mem {sz : Size} {other : Option Reg} {m : MemEa} {s : State} {v : BitVec sz.bits}
    (hmode : eaRefusal sz other m = none) (hread : s.readMem sz (autoBase m) (memAddr sz m s) = .ok v) :
    fetchDest sz other (.mem m) s = .ok (v, .mem (memAddr sz m s) (autoBase m), memEffect sz m s) := by
  simp only [fetchDest, locateDst, locateMem_eq s hmode, bind, Except.bind, State.readOp, memEffect_readMem, hread, pure,
    Except.pure]

theorem readMem_byte {s : State} {a : Addr} {v : Byte} (auto : Option Reg) (h : s.byteAt a = some v) :
    s.readMem .byte auto a = .ok v := by
  simp [State.readMem, State.readByte, h]

/-- Settles O16: the addresses and the moved registers mode by mode, the reads by `fetchSource_mem` and `fetchDest_mem`. -/
theorem operandByMode : Obligations.OperandByMode := by
  intro sz other s k
  refine ⟨fun r => ⟨rfl, rfl, rfl⟩, fun v => by simp [fetchSource, immValue], fun v => by simp [fetchSource, immValue], ?_⟩
  intro m hmode a t
  have haddr : memAddr sz m s = a := by cases sz <;> cases m <;> rfl
  have hmoved : memEffect sz m s = t := by cases sz <;> cases m <;> rfl
  refine ⟨haddr, ?_, ?_, ?_⟩
  · rw [← haddr, ← hmoved]
    exact locateMem_eq s hmode
  · rintro v rfl hbyte
    have hread : s.readMem .byte (autoBase m) (memAddr .byte m s) = .ok (v.setWidth 8) := by
      rw [haddr, BitVec.setWidth_eq]
      exact readMem_byte _ hbyte
    rw [← haddr, ← hmoved]
    exact ⟨fetchSource_mem hmode hread, fetchDest_mem hmode hread⟩
  · rintro v rfl heven hword
    have hread : s.readMem .word (autoBase m) (memAddr .word m s) = .ok (v.setWidth 16) := by
      rw [haddr, BitVec.setWidth_eq]
      exact readWord_even _ ((isEven_iff a).2 heven) hword
    rw [← haddr, ← hmoved]
    exact ⟨fetchSource_mem hmode hread, fetchDest_mem hmode hread⟩

/-! ### A memory operand that cannot be used -/

/-- Why a memory operand stops the instruction whatever the instruction does with it: its mode is refused (R70), or it is a
word at an odd address (R57). -/
inductive MemStops (sz : Size) (other : Option Reg) (m : MemEa) (s : State) : Stop → Prop where
  | refused {why : Refusal} (h : eaRefusal sz other m = some why) : MemStops sz other m s (.halt (.refused why))
  | misaligned (hsz : sz = .word) (hmode : eaRefusal sz other m = none) (hodd : isEven (memAddr sz m s) = false) :
      MemStops sz other m s (.addressError (autoBase m))

section MemStops

variable {sz : Size} {other : Option Reg} {m : MemEa} {s : State} {e : Stop}

theorem locateMem_refused {why : Refusal} (h : eaRefusal sz other m = some why) (s : State) :
    locateMem sz other m s = .error (.halt (.refused why)) := by
  simp [locateMem, h, refuse]

theorem readOp_odd {a : Addr} (s : State) (h : isEven a = false) (auto : Option Reg) :
    s.readOp .word (.mem a auto) = .error (.addressError auto) := readWord_odd s auto a h

theorem fetchSource_stops (h : MemStops sz other m s e) : fetchSource sz other (.mem m) s = .error e := by
  cases h with
  | refused h => simp only [fetchSource, locateMem_refused h, bind, Except.bind]
  | misaligned hsz hmode hodd =>
    subst hsz
    simp only [fetchSource, locateMem_eq s hmode, bind, Except.bind, readOp_odd _ hodd]

theorem fetchDest_stops (h : MemStops sz other m s e) : fetchDest sz other (.mem m) s = .error e := by
  cases h with
  | refused h => simp only [fetchDest, locateDst, locateMem_refused h, bind, Except.bind]
  | misaligned hsz hmode hodd =>
    subst hsz
    simp only [fetchDest, locateDst, locateMem_eq s hmode, bind, Except.bind, readOp_odd _ hodd]

/-! ### The skeletons over such an operand -/

theorem withSource_stops (h : MemStops sz other m s e) (k : BitVec sz.bits → State → Except Stop State) :
    withSource sz (.mem m) other s k = complete s (.error e) := by
  simp only [withSource, fetchSource_stops h, bind, Except.bind]

theorem modifyOp_stops (h : MemStops sz other m s e) (f : State → BitVec sz.bits → BitVec sz.bits)
    (g : State → BitVec sz.bits → Flags) : modifyOp sz (.mem m) other s f g = complete s (.error e) := by
  simp only [modifyOp, fetchDest_stops h, bind, Except.bind]

theorem testOp_stops (h : MemStops sz other m s e) (g : State → BitVec sz.bits → Flags) :
    testOp sz (.mem m) other s g = complete s (.error e) := by
  simp only [testOp, fetchDest_stops h, bind, Except.bind]

theorem execNeg_stops (h : MemStops sz none m s e) : execNeg sz (.mem m) s = complete s (.error e) := by
  simp only [execNeg, fetchDest_stops h, bind, Except.bind]

theorem putDest_stops (h : MemStops sz other m s e) (v : State → BitVec sz.bits) (g : State → Flags) :
    putDest sz (.mem m) other s v g = complete s (.error e) := by
  cases h with
  | refused h => simp only [putDest, locateDst, locateMem_refused h, bind, Except.bind]
  | misaligned hsz hmode hodd =>
    subst hsz
    simp [putDest, locateDst, locateMem_eq s hmode, bind, Except.bind, State.writeOp, aligned, hodd]

/-- A bit number is checked on a byte only, and a byte operand stops before, when it is located. -/
theorem bitOp_stops (h : MemStops sz other m s e) (k : State → Nat)
    (w : Loc → Nat → BitVec sz.bits → State → Except Stop State) :
    bitOp sz (.mem m) other k s w = complete s (.error e) := by
  cases h with
  | refused h => simp only [bitOp, locateDst, locateMem_refused h, bind, Except.bind]
  | misaligned hsz hmode hodd =>
    subst hsz
    simp [bitOp, locateDst, locateMem_eq s hmode, bind, Except.bind, readOp_odd _ hodd]

/-! ### The instructions over such an operand -/

/-- The instructions with a register operand and a memory operand, in both sizes. -/
def regMemInstrs (sz : Size) (m : MemEa) (d : Reg) : List Instr :=
  [.movGLoad sz (.mem m) d, .addG sz (.mem m) d, .adds sz (.mem m) d, .addx sz (.mem m) d, .sub sz (.mem m) d,
    .subs sz (.mem m) d, .subx sz (.mem m) d, .mulxu sz (.mem m) d, .divxu sz (.mem m) d, .cmpG sz (.mem m) d,
    .and sz (.mem m) d, .or sz (.mem m) d, .xor sz (.mem m) d, .movGStore sz d m, .bsetReg sz d (.mem m),
    .bclrReg sz d (.mem m), .bnotReg sz d (.mem m), .btstReg sz d (.mem m)]

/-- The instructions with a memory operand alone, in both sizes. -/
def memInstrs (sz : Size) (m : MemEa) (k : BitVec 4) (v : Byte) : List Instr :=
  [.addQ1 sz (.mem m), .addQ2 sz (.mem m), .addQm1 sz (.mem m), .addQm2 sz (.mem m), .neg sz (.mem m), .not sz (.mem m),
    .tst sz (.mem m), .clr sz (.mem m), .shal sz (.mem m), .shar sz (.mem m), .shll sz (.mem m), .shlr sz (.mem m),
    .rotl sz (.mem m), .rotr sz (.mem m), .rotxl sz (.mem m), .rotxr sz (.mem m), .bsetImm sz k (.mem m),
    .bclrImm sz k (.mem m), .bnotImm sz k (.mem m), .btstImm sz k (.mem m), .movGImm8 sz v m]

theorem exec_regMemInstrs_stops {d : Reg} (h : MemStops sz (some d) m s e) :
    ∀ i ∈ regMemInstrs sz m d, exec i s = complete s (.error e) := by
  simp only [regMemInstrs, List.forall_mem_cons, List.not_mem_nil, false_implies, implies_true, and_true]
  dsimp only [exec, execMovGLoad, execAddG, execAdds, execAddx, execSub, execSubs, execSubx, execMulxu, execDivxu, execCmpG,
    execAnd, execOr, execXor, aluRd, logicRd, execMovGStore, execBsetReg, execBclrReg, execBnotReg, execBtstReg]
  simp only [withSource_stops h, putDest_stops h, bitOp_stops h, and_self]

theorem exec_memInstrs_stops (h : MemStops sz none m s e) (k : BitVec 4) (v : Byte) :
    ∀ i ∈ memInstrs sz m k v, exec i s = complete s (.error e) := by
  simp only [memInstrs, List.forall_mem_cons, List.not_mem_nil, false_implies, implies_true, and_true]
  dsimp only [exec, execAddQ1, execAddQ2, execAddQm1, execAddQm2, addQuick, execNot, execTst, execClr, execShal, execShar,
    execShll, execShlr, execRotl, execRotr, execRotxl, execRotxr, shiftOp, execBsetImm, execBclrImm, execBnotImm, execBtstImm,
    execMovGImm8]
  simp only [modifyOp_stops h, execNeg_stops h, testOp_stops h, putDest_stops h, bitOp_stops h, and_self]

theorem onAllowed_of {cr : CtlReg} (h : ctlAllowed sz cr = true) (k : Outcome) : onAllowed sz cr k = k := if_pos h

theorem exec_ldc_stops {cr : CtlReg} (hcr : ctlAllowed sz cr = true) (h : MemStops sz none m s e) :
    exec (.ldc sz (.mem m) cr) s = complete s (.error e) := (onAllowed_of hcr _).trans (withSource_stops h _)

theorem exec_stc_stops {cr : CtlReg} (hcr : ctlAllowed sz cr = true) (h : MemStops sz none m s e) :
    exec (.stc sz cr (.mem m)) s = complete s (.error e) := (onAllowed_of hcr _).trans (putDest_stops h _ _)

end MemStops

/-! ### The refusals -/

/-- Both auto-modify modes are judged by their base register (U6, U7). -/
theorem eaRefusal_auto {m : MemEa} {r : Reg} (hm : autoBase m = some r) (sz : Size) (other : Option Reg) :
    eaRefusal sz other m =
      if sz = .byte ∧ r = 7 then some .byteThroughStackPointer
      else if other = some r then some .registerIsAutoBase else none := by
  simp only [eaRefusal, hm]
  rfl

/-- The pairs of size and control register that are allowed (10_state.md R32). -/
theorem mem_of_ctlAllowed {sz : Size} {cr : CtlReg} (h : ctlAllowed sz cr = true) :
    (sz, cr) ∈ [(Size.word, CtlReg.sr), (.byte, .ccr), (.byte, .br), (.byte, .ep), (.byte, .dp), (.byte, .tp)] := by
  cases sz <;> cases cr <;> simp_all [ctlAllowed]

theorem onAllowed_refused {sz : Size} {cr : CtlReg}
    (h : (sz, cr) ∉ [(Size.word, CtlReg.sr), (.byte, .ccr), (.byte, .br), (.byte, .ep), (.byte, .dp), (.byte, .tp)])
    (k : Outcome) : onAllowed sz cr k = .refused .controlRegisterNotAllowed :=
  if_neg (mt mem_of_ctlAllowed h)

/-- Settles O17: the refusals of the two modes by `MemStops.refused`, the others by their own checks. -/
theorem refusedOperandCombinations : Obligations.RefusedOperandCombinations := by
  refine ⟨⟨fun sz other r => ?_, fun sz m d why s hwhy => ?_⟩, fun sz m k v why s hwhy => ?_, fun sz cr src dst imm s => ?_,
    fun list s hlist => ?_⟩
  · have hpre := eaRefusal_auto (m := .preDec r) rfl sz other
    have hpost := eaRefusal_auto (m := .postInc r) rfl sz other
    refine ⟨fun h7 => ?_, fun h7 hother => ?_, fun h7 hother => ?_⟩
    · rw [hpre, hpost, if_pos h7]
      exact ⟨rfl, rfl⟩
    · rw [hpre, hpost, if_neg h7, if_pos hother]
      exact ⟨rfl, rfl⟩
    · rw [hpre, hpost, if_neg h7, if_neg hother]
      exact ⟨rfl, rfl⟩
  · have hstop : MemStops sz (some d) m s _ := .refused hwhy
    refine ⟨exec_regMemInstrs_stops hstop, ?_⟩
    rintro rfl
    dsimp only [exec, execMovfpe, execMovtpe]
    rw [withSource_stops hstop, putDest_stops hstop]
    exact ⟨rfl, rfl⟩
  · have hstop : MemStops sz none m s _ := .refused hwhy
    refine ⟨exec_memInstrs_stops hstop k v, ?_⟩
    rintro rfl
    refine ⟨?_, ?_, fun cr hcr => ?_⟩
    · dsimp only [exec, execTas]
      rw [modifyOp_stops hstop]
      rfl
    · dsimp only [exec, execCmpGImm8]
      rw [testOp_stops hstop]
      rfl
    · have hallowed : ctlAllowed .byte cr = true := by
        revert cr
        simp [ctlAllowed]
      exact ⟨exec_ldc_stops hallowed hstop, exec_stc_stops hallowed hstop⟩
  · exact ⟨fun hcr => ⟨onAllowed_refused hcr _, onAllowed_refused hcr _⟩,
      fun hcr => ⟨onAllowed_refused hcr _, onAllowed_refused hcr _, onAllowed_refused hcr _⟩⟩
  · exact ⟨if_pos hlist, if_pos hlist⟩

/-! ### Words at odd addresses -/

theorem loadFrom_odd {a : Addr} (h : isEven a = false) (d : Reg) (s : State) :
    loadFrom .word d a s = ofEntry (raiseAddressError none s) := by
  simp only [loadFrom, State.readMem, readWord_odd s none a h, bind, Except.bind, complete]

theorem storeTo_odd {a : Addr} (h : isEven a = false) (r : Reg) (s : State) :
    storeTo .word r a s = ofEntry (raiseAddressError none s) := by
  simp [storeTo, State.writeOp, aligned, h, bind, Except.bind, complete]

/-- Settles O18: the general forms by `MemStops.misaligned`, the short moves by their own loads and stores. -/
theorem misalignedWordTakesAddressError : Obligations.MisalignedWordTakesAddressError := by
  intro m d k v w s o
  refine ⟨fun hodd hmode => ?_, fun hodd hmode => exec_regMemInstrs_stops (.misaligned rfl hmode hodd), fun hodd => ?_,
    fun hodd => ?_⟩
  · have hstop : MemStops .word none m s _ := .misaligned rfl hmode hodd
    have hlast : ∀ i ∈ [Instr.movGImm16 w m, .cmpGImm16 w m, .stc .word .sr (.mem m), .ldc .word (.mem m) .sr],
        exec i s = o := by
      simp only [List.forall_mem_cons]
      refine ⟨?_, ?_, exec_stc_stops rfl hstop, exec_ldc_stops rfl hstop, by simp⟩
      · dsimp only [exec, execMovGImm16]
        rw [putDest_stops hstop]
        rfl
      · dsimp only [exec, execCmpGImm16]
        rw [testOp_stops hstop]
        rfl
    exact List.forall_mem_append.2 ⟨exec_memInstrs_stops hstop k v, hlast⟩
  · simp only [List.forall_mem_cons]
    exact ⟨loadFrom_odd hodd d s, storeTo_odd hodd d s, by simp⟩
  · simp only [List.forall_mem_cons]
    exact ⟨loadFrom_odd hodd d s, storeTo_odd hodd d s, by simp⟩

end Sys2Proof.Machine

end Operands

/-! ## Exception entry and AddressError

An exception entry from an even SP completes (60_exceptions.md R296, R297, R299); from an odd SP it is the double fault, and so
is every instruction that uses the stack there (R296, R304). -/

section ExceptionEntries

namespace Sys2Proof.Machine

/-! ### An entry from an even SP -/

theorem wordAt_of_sameMemory {bytes : List Addr} {s t : State} {a : Addr} (h : sameMemory bytes s t)
    (ha : ∀ b ∈ operandBytes .word a, b ∉ bytes) : t.wordAt a = s.wordAt a :=
  wordAt_congr (h a (ha a (by simp [operandBytes]))) (h (a + 1) (ha (a + 1) (by simp [operandBytes])))

/-- The state in which an entry reads its vector: the frame pushed, T clear. -/
def State.vectorRead (ret : Word) (s : State) : State := (s.framePushed ret).setSr { s.sr with t := false }

/-- The state an entry ends in, given the page and address of its vector. -/
def State.handlerEntered (ret : Word) (cp : Byte) (pc : Word) (s : State) : State :=
  (((s.vectorRead ret).setCp cp).setPc pc).setRunState .running

theorem State.setCp_of_eq {s : State} {cp : Byte} (h : s.cp = cp) : s.setCp cp = s := by
  subst h
  rfl

/-- The vector is read from outside the frame, so as it was before the push (R299). -/
theorem loadVector_vectorRead {n : Nat} {ret : Word} {cp : Byte} {pc : Word} {s : State} (h : vectorGives n cp pc s) :
    loadVector n (s.vectorRead ret) = .ok (((s.vectorRead ret).setCp cp).setPc pc) := by
  have hmode : (s.vectorRead ret).mode = s.mode := s.framePushed_mode ret
  have hframe : sameMemory (stackBytes s (frameWords s.mode)) s (s.vectorRead ret) := sameMemory_framePushed ret s
  unfold vectorGives at h
  cases hm : s.mode with
  | min =>
    simp only [hm] at h hframe
    obtain ⟨rfl, hpc, hapart⟩ := h
    rw [State.setCp_of_eq (s := s.vectorRead ret) (s.framePushed_fields ret).1]
    refine loadVector_min (hmode.trans hm) ?_
    rw [phys_vector_congr hmode, wordAt_of_sameMemory hframe hapart, hpc]
  | max =>
    simp only [hm] at h hframe
    obtain ⟨⟨hi, hhi, rfl⟩, hpc, hapart⟩ := h
    obtain ⟨hapart_hi, hapart_pc⟩ := List.forall_mem_append.1 hapart
    refine loadVector_max (hmode.trans hm) ?_ ?_
    · rw [phys_vector_congr hmode, wordAt_of_sameMemory hframe hapart_hi, hhi]
    · rw [phys_vector_congr hmode, wordAt_of_sameMemory hframe hapart_pc, hpc]

theorem takeException_even {n : Nat} {ret : Word} {cp : Byte} {pc : Word} {s : State} (heven : s.sp.getLsbD 0 = false)
    (h : vectorGives n cp pc s) : takeException n ret s = .ok (s.handlerEntered ret cp pc) := by
  have hsr : (s.framePushed ret).setSr { (s.framePushed ret).sr with t := false } = s.vectorRead ret := by
    rw [(s.framePushed_fields ret).2.1]
    rfl
  simp only [takeException, stackFrame_even ret s heven, inEntry, bind, Except.bind, hsr, loadVector_vectorRead h, pure,
    Except.pure]
  rfl

/-- The low byte of the second word of a frame in maximum mode is CP (R300). -/
theorem framePushed_cpByte (ret : Word) {s : State} (heven : s.sp.getLsbD 0 = false) (hm : s.mode = .max) :
    (s.framePushed ret).byteAt (phys s .stack (s.sp - 3)) = some s.cp := by
  obtain ⟨_, _, hcp⟩ := framePushed_words ret s heven
  have heven4 : (s.sp - 4).getLsbD 0 = false := sub_two_two s.sp ▸ sub_two_even _ (sub_two_even _ heven)
  have haddr : phys s .stack (s.sp - 4) + 1 = phys s .stack (s.sp - 3) := by
    rw [phys_succ s .stack _ heven4]
    congr 1
    bv_omega
  rw [← haddr]
  exact byteAt_succ (hcp hm)

theorem entered_handlerEntered (ret : Word) (cp : Byte) (pc : Word) {s : State} (heven : s.sp.getLsbD 0 = false) :
    entered ret cp pc s (s.handlerEntered ret cp pc) := by
  obtain ⟨_, _, hbr, hep, hdp, htp⟩ := s.framePushed_fields ret
  obtain ⟨hsr, hret, _⟩ := framePushed_words ret s heven
  have hsp : (s.handlerEntered ret cp pc).sp = _ := s.framePushed_sp ret
  exact ⟨hsp, hsp ▸ hsr, framePushed_cpByte ret heven, hret, rfl, rfl, rfl, rfl, s.framePushed_mode ret, hbr, hep, hdp, htp,
    sameRegs_framePushed ret s, sameMemory_framePushed ret s⟩

/-- What a vector gives depends on the mode, CP, TP, SP and memory. -/
theorem vectorGives_congr {n : Nat} {cp : Byte} {pc : Word} {s t : State} (hmode : t.mode = s.mode) (hcp : t.cp = s.cp)
    (htp : t.tp = s.tp) (hsp : t.sp = s.sp) (hmem : t.mem = s.mem) (h : vectorGives n cp pc s) : vectorGives n cp pc t := by
  have hword (a : Addr) : t.wordAt a = s.wordAt a := by simp only [State.wordAt, State.byteAt, hmem]
  simpa only [vectorGives, stackBytes, hmode, hcp, hsp, hword, phys_vector_congr hmode, phys_stack_congr hmode htp] using h

/-! ### AddressError -/

/-- The state an AddressError is entered from: the register already written and the stacked PC are free values. -/
def State.addressErrorFrom (touched : Option Reg) (s : State) : State :=
  match touched with
  | none => s.addDraws 1
  | some r => ((s.setReg r (Config.freeWord s.draws)).addDraws 1).addDraws 1

theorem raiseAddressError_eq (touched : Option Reg) (s : State) :
    ∃ ret, raiseAddressError touched s = takeException Config.vecAddrErr ret (s.addressErrorFrom touched) := by
  cases touched <;> exact ⟨_, rfl⟩

theorem sameRegs_addressErrorFrom (touched : Option Reg) (s : State) :
    sameRegs touched.toList s (s.addressErrorFrom touched) := by
  cases touched with
  | none => exact sameRegs_refl _ _
  | some r => exact (framed_setReg s r _).1

/-- Nothing but that register is written. -/
theorem addressErrorFrom_keeps (touched : Option Reg) (s : State) :
    sameControl s (s.addressErrorFrom touched) ∧ (s.addressErrorFrom touched).sr = s.sr ∧
      (s.addressErrorFrom touched).pc = s.pc ∧ (s.addressErrorFrom touched).mem = s.mem := by
  cases touched <;> exact ⟨sameControl_refl s, rfl, rfl, rfl⟩

/-- From an even SP that was not written, with the vector there, AddressError is entered. -/
theorem raiseAddressError_even {touched : Option Reg} {s : State} {ret : Word} {cp : Byte} {pc : Word}
    (hraise : raiseAddressError touched s = takeException Config.vecAddrErr ret (s.addressErrorFrom touched))
    (hsp : touched ≠ some Config.spIndex) (heven : s.sp.getLsbD 0 = false) (h : vectorGives Config.vecAddrErr cp pc s) :
    ∃ t, raiseAddressError touched s = .ok t ∧ entered ret cp pc (s.addressErrorFrom touched) t := by
  obtain ⟨⟨hmode, hcp, _, _, _, _, _, htp, _⟩, _, _, hmem⟩ := addressErrorFrom_keeps touched s
  have hsame : (s.addressErrorFrom touched).sp = s.sp :=
    sameRegs_addressErrorFrom touched s Config.spIndex (by simpa using hsp)
  have heven' : (s.addressErrorFrom touched).sp.getLsbD 0 = false := hsame ▸ heven
  exact ⟨_, hraise.trans (takeException_even heven' (vectorGives_congr hmode hcp htp hsame hmem h)),
    entered_handlerEntered ret cp pc heven'⟩

/-! ### SP odd -/

theorem takeException_odd {s : State} (h : s.sp.getLsbD 0 = true) (n : Nat) (ret : Word) :
    takeException n ret s = .error (.fault .doubleFault) := by
  simp only [takeException, stackFrame_odd ret s h, inEntry, bind, Except.bind]

/-- The AddressError of the stack access cannot be taken either. -/
theorem complete_odd {s : State} (h : s.sp.getLsbD 0 = true) :
    complete s (.error (.addressError none)) = .fault .doubleFault := by
  have hraise : raiseAddressError none s = .error (.fault .doubleFault) :=
    takeException_odd (s := s.addDraws 1) h Config.vecAddrErr (Config.freeWord s.draws)
  simp only [complete, hraise, ofEntry]

/-- An instruction that begins with a push. -/
theorem complete_push_odd {s : State} (h : s.sp.getLsbD 0 = true) (v : Word) (f : State → Except Stop State) :
    complete s (s.push16 v >>= f) = .fault .doubleFault := by
  rw [push16_odd s v h]
  exact complete_odd h

/-- An instruction that begins with a pop. -/
theorem complete_pop_odd {s : State} (h : s.sp.getLsbD 0 = true) (f : Word × State → Except Stop State) :
    complete s (s.pop16 >>= f) = .fault .doubleFault := by
  rw [pop16_odd s none h]
  exact complete_odd h

theorem exec_stm_odd {s : State} {list : Byte} (h : s.sp.getLsbD 0 = true) (hlist : list.getLsbD 7 = false)
    (hne : listedRegs list ≠ []) : exec (.stm list) s = .fault .doubleFault := by
  obtain ⟨r, rest, hregs⟩ := List.exists_cons_of_ne_nil (List.reverse_ne_nil_iff.2 hne)
  dsimp only [exec, execStm]
  rw [hlist, hregs]
  exact complete_push_odd h _ _

theorem exec_ldm_odd {s : State} {list : Byte} (h : s.sp.getLsbD 0 = true) (hlist : list.getLsbD 7 = false)
    (hne : listedRegs list ≠ []) : exec (.ldm list) s = .fault .doubleFault := by
  obtain ⟨r, rest, hregs⟩ := List.exists_cons_of_ne_nil hne
  dsimp only [exec, execLdm]
  rw [hlist, hregs]
  exact complete_pop_odd h _

theorem inMaximumMode_of {s : State} (h : s.mode = .max) (k : Outcome) : inMaximumMode s k = k := by
  simp only [inMaximumMode, h]

theorem exec_unlk_odd {s : State} (h : (s.reg Config.fpIndex).getLsbD 0 = true) :
    exec .unlk s = ofEntry (raiseAddressError (some Config.spIndex) s) := by
  have hpop := pop16_odd (s.setSp (s.reg Config.fpIndex)) (some Config.spIndex) (by rw [State.sp_setSp]; exact h)
  dsimp only [exec, execUnlk]
  rw [hpop]
  rfl

/-- Settles O52: the entry from `addressErrorFrom`, the double faults by the stack access each instruction begins with. -/
theorem addressErrorEntry : Obligations.AddressErrorEntry := by
  refine ⟨fun touched s => ?_, fun n ret x p w v r s hodd => ?_, fun s => exec_unlk_odd⟩
  · obtain ⟨ret, hraise⟩ := raiseAddressError_eq touched s
    obtain ⟨hcontrol, hsr, hpc, hmem⟩ := addressErrorFrom_keeps touched s
    exact ⟨_, ret, hraise, sameRegs_addressErrorFrom touched s, hcontrol, hsr, hpc,
      fun a _ => congrArg (·.read a.toNat) hmem, fun _ _ hsp heven h => raiseAddressError_even hraise hsp heven h⟩
  · have htrap (n : Nat) (ret : Word) : ofEntry (takeException n ret s) = .fault .doubleFault :=
      congrArg ofEntry (takeException_odd hodd n ret)
    have hpush (v f) : complete s (s.push16 v >>= f) = .fault .doubleFault := complete_push_odd hodd v f
    have hpop (f) : complete s (s.pop16 >>= f) = .fault .doubleFault := complete_pop_odd hodd f
    refine ⟨takeException_odd hodd n ret, ?_, fun hv => ?_,
      fun list hlist hne => ⟨exec_stm_odd hodd hlist hne, exec_ldm_odd hodd hlist hne⟩, fun hmax => ⟨?_, fun hr => ?_⟩⟩
    · simp only [List.forall_mem_cons, List.not_mem_nil, false_implies, implies_true, and_true]
      dsimp only [exec, execTrapa, execRts, execRtd8, execRtd16, returnDrop, execRte, returnFromException, execBsr8, execBsr16,
        execJsrInd, execJsrAbs, execJsrDisp8, execJsrDisp16, callTo, execLink8, execLink16, linkFrame]
      simp only [htrap, hpop, hpush, and_self]
    · dsimp only [exec, execTrapVs]
      rw [if_pos hv, htrap]
    · simp only [List.forall_mem_cons, List.not_mem_nil, false_implies, implies_true, and_true]
      dsimp only [exec, execPjsrAbs, pageCallTo, execPrts, execPrtd8, execPrtd16, pageReturnDrop]
      simp only [inMaximumMode_of hmax, hpush, hpop, and_self]
    · dsimp only [exec, execPjsrInd, pageTarget, pageCallTo]
      rw [inMaximumMode_of hmax, if_neg hr, hpush]

end Sys2Proof.Machine

end ExceptionEntries

/-! ## The code is unambiguous

The decoder against the encoder (30_encoding.md R80 to R98). That it reads every encoding is `decode_encode`; here is the
converse, that the bytes of what it reads are the encoding: a lemma for each way the decoder takes a byte, then one for each
table, in the order of their definitions. -/

section Decoding

namespace Sys2Proof

/-- Settles O1, by `decode_encode`. -/
theorem decodeReadsEveryEncoding : Obligations.DecodeReadsEveryEncoding := decode_encode

/-- Settles O4, by `encode_length`. -/
theorem encodingsHaveOneToSixBytes : Obligations.EncodingsHaveOneToSixBytes := encode_length

/-! ### A byte is put together from its fields -/

theorem eq_ofNat_of_toNat_eq {b : Byte} {n : Nat} (h : b.toNat = n) : b = BitVec.ofNat 8 n := by
  rw [← h, BitVec.ofNat_toNat, BitVec.setWidth_eq]

theorem byteReg_regField {b : Byte} {p : BitVec 5} (h : opField b = p.toNat) : byteReg p (regField b) = b := by
  apply BitVec.eq_of_toNat_eq
  rw [opField_eq] at h
  rw [toNat_byteReg, regField_val]
  omega

/-- A four-bit code is the two five-bit codes that begin with it. -/
theorem byteNibble_nibbleField {b : Byte} {p : BitVec 4} (h : opField b = 2 * p.toNat ∨ opField b = 2 * p.toNat + 1) :
    byteNibble p (nibbleField b) = b := by
  apply BitVec.eq_of_toNat_eq
  rw [opField_eq] at h
  rw [toNat_byteNibble, toNat_nibbleField]
  omega

theorem opField_of_highNibble {b : Byte} {n : Nat} (h : (b.extractLsb' 4 4).toNat = n) :
    opField b = 2 * n ∨ opField b = 2 * n + 1 := by
  rw [toNat_highNibble] at h
  rw [opField_eq]
  omega

theorem code_ctlField (b : Byte) : (ctlField b).code = regField b := by
  have hlt := (b.extractLsb' 0 3).isLt
  apply Fin.ext
  change (ctlField b).code.val = (b.extractLsb' 0 3).toNat
  unfold ctlField
  generalize (b.extractLsb' 0 3).toNat = n at hlt ⊢
  interval_cases n <;> rfl

theorem byteReg_ctlField {b : Byte} {p : BitVec 5} (h : opField b = p.toNat) : byteReg p (ctlField b).code = b := by
  rw [code_ctlField, byteReg_regField h]

theorem bytes16_wordOf (h l : Byte) : bytes16 (wordOf h l) = [h, l] := by
  rw [bytes16, wordOf, BitVec.extractLsb'_append_eq_left, BitVec.extractLsb'_append_eq_right]

/-- The size bit is the last bit of the five-bit code (R82, R83). -/
theorem sizeField_eq (b : Byte) : sizeField b = if opField b % 2 = 1 then .word else .byte := by
  have hbit : b.getLsbD 3 = decide (b.toNat / 8 % 2 = 1) := by
    rw [← BitVec.testBit_toNat, Nat.testBit_eq_decide_div_mod_eq]
  simp only [sizeField, hbit, opField_eq, decide_eq_true_eq]

theorem toNat_append_bit (p : BitVec 4) (z : BitVec 1) : (p ++ z).toNat = 2 * p.toNat + z.toNat := by
  rw [BitVec.toNat_append, ← Nat.shiftLeft_add_eq_or_of_lt z.isLt, Nat.shiftLeft_eq]
  omega

theorem eaByte_fields {b : Byte} {p : BitVec 4} (h : (b.extractLsb' 4 4).toNat = p.toNat) :
    eaByte p (sizeField b) (regField b) = b := by
  rw [sizeField_eq]
  rcases opField_of_highNibble h with hop | hop
  · rw [if_neg (by omega)]
    exact byteReg_regField (hop.trans (toNat_append_bit p 0#1).symm)
  · rw [if_pos (by omega)]
    exact byteReg_regField (hop.trans (toNat_append_bit p 1#1).symm)

/-! ### What one outcome of the decoder must satisfy -/

/-- The bytes `bs` are the encoding of the well-formed instruction `i`. -/
def IsEncoding (bs : List Byte) (i : Instr) : Prop := WellFormed i ∧ encode i = bs

/-- An instruction that `d` reads from the bytes `all` is well formed, and is an `<EA>` row or has `all` for its encoding and
what is left over. -/
def Faithful (all : List Byte) (d : Decoded) : Prop :=
  ∀ (i : Instr) (rest : List Byte), d = .instr i rest → WellFormed i ∧ (i.isEaRow = false → all = encode i ++ rest)

variable {pre bs : List Byte}

theorem faithful_instr {i : Instr} (h : IsEncoding pre i) : Faithful (pre ++ bs) (.instr i bs) := by
  rintro _ _ ⟨⟩
  obtain ⟨hwf, rfl⟩ := h
  exact ⟨hwf, fun _ => rfl⟩

theorem faithful_unassigned (all : List Byte) : Faithful all .unassigned := by
  rintro _ _ ⟨⟩

theorem faithful_next8 {k : Byte → List Byte → Decoded} (h : ∀ b rest, Faithful (pre ++ b :: rest) (k b rest)) :
    Faithful (pre ++ bs) (next8 bs k) := by
  cases bs with
  | nil => rintro _ _ ⟨⟩
  | cons b rest => exact h b rest

theorem faithful_next16 {k : Word → List Byte → Decoded}
    (h : ∀ v rest, Faithful (pre ++ (bytes16 v ++ rest)) (k v rest)) : Faithful (pre ++ bs) (next16 bs k) :=
  faithful_next8 fun hi rest => by
    rw [List.append_cons]
    refine faithful_next8 fun lo rest => ?_
    simpa [bytes16_wordOf] using h (wordOf hi lo) rest

theorem faithful_with8 {i : Byte → Instr} (h : ∀ v, IsEncoding (pre ++ [v]) (i v)) :
    Faithful (pre ++ bs) (with8 bs i) :=
  faithful_next8 fun v rest => by
    rw [List.append_cons]
    exact faithful_instr (h v)

theorem faithful_with16 {i : Word → Instr} (h : ∀ v, IsEncoding (pre ++ bytes16 v) (i v)) :
    Faithful (pre ++ bs) (with16 bs i) :=
  faithful_next16 fun v rest => by
    rw [← List.append_assoc]
    exact faithful_instr (h v)

/-- An EA field with an unassigned OP field is read as its `<EA>` row (R99). -/
theorem faithful_opResult {sz : Size} {ea : SrcEa} {o : Option Instr} (h : ∀ i, o = some i → IsEncoding pre i) :
    Faithful (pre ++ bs) (opResult sz ea bs o) := by
  cases o with
  | none =>
    rintro _ _ ⟨⟩
    rcases ea with _ | (_ | _ | _ | _ | _ | _ | _) | (_ | _) <;> exact ⟨rfl, nofun⟩
  | some i => exact faithful_instr (h i rfl)

/-! ### The tables of the general format -/

section Tables

variable {sz : Size} {op : Byte} {i : Instr}

/-- Every code is followed by a register number, but for that of LDC, which names a control register. -/
theorem isEncoding_of_opSource {ea : SrcEa} (hfits : ea.fits sz = true) (h : opSource sz ea op = some i) :
    IsEncoding (ea.encode sz ++ [op]) i := by
  unfold opSource at h
  split at h
  case h_10 hcode => cases h; exact ⟨hfits, congrArg (ea.encode sz ++ [·]) (byteReg_ctlField hcode)⟩
  case h_15 => cases h
  all_goals
    cases h
    exact ⟨hfits, congrArg (ea.encode sz ++ [·]) (byteReg_regField ‹_›)⟩

/-- A code is a whole byte; that of TAS is assigned for bytes only. -/
theorem isEncoding_of_opFixed {dst : DstEa} (h : opFixed sz dst op = some i) : IsEncoding (dst.encode sz ++ [op]) i := by
  unfold opFixed at h
  split at h
  case h_9 hop =>
    rw [Option.ite_none_right_eq_some] at h
    obtain ⟨rfl, hi⟩ := h
    cases hi
    exact ⟨rfl, congrArg (dst.encode .byte ++ [·]) (eq_ofNat_of_toNat_eq hop).symm⟩
  case h_18 => cases h
  all_goals
    cases h
    exact ⟨rfl, congrArg (dst.encode sz ++ [·]) (eq_ofNat_of_toNat_eq ‹_›).symm⟩

/-- STC names a control register; the codes up to `01111` a register; a bit number takes up two codes. -/
theorem isEncoding_of_opDest {dst : DstEa} (h : opDest sz dst op = some i) : IsEncoding (dst.encode sz ++ [op]) i := by
  unfold opDest at h
  split at h
  case h_5 hcode => cases h; exact ⟨rfl, congrArg (dst.encode sz ++ [·]) (byteReg_ctlField hcode)⟩
  case h_14 => exact isEncoding_of_opFixed h
  case h_1 hcode | h_2 hcode | h_3 hcode | h_4 hcode =>
    cases h
    exact ⟨rfl, congrArg (dst.encode sz ++ [·]) (byteReg_regField hcode)⟩
  case h_6 hcode | h_8 hcode | h_10 hcode | h_12 hcode =>
    cases h
    exact ⟨rfl, congrArg (dst.encode sz ++ [·]) (byteNibble_nibbleField (.inl hcode))⟩
  case h_7 hcode | h_9 hcode | h_11 hcode | h_13 hcode =>
    cases h
    exact ⟨rfl, congrArg (dst.encode sz ++ [·]) (byteNibble_nibbleField (.inr hcode))⟩

theorem isEncoding_of_opRegOnly {r : Reg} (h : opRegOnly sz r op = some i) :
    IsEncoding ((SrcEa.reg r).encode sz ++ [op]) i := by
  unfold opRegOnly at h
  split at h
  · split at h
    case h_4 => cases h
    all_goals
      cases h
      exact ⟨rfl, congrArg ([eaByte 0b1010 .byte r, ·]) (eq_ofNat_of_toNat_eq ‹_›).symm⟩
  · next hcode =>
    cases h
    exact ⟨rfl, congrArg ([eaByte 0b1010 .word r, ·]) (byteReg_regField hcode)⟩
  · cases h

theorem isEncoding_of_opReg00 {r : Reg} (h : opReg00 sz r op = some i) :
    IsEncoding ((SrcEa.reg r).encode sz ++ [0x00] ++ [op]) i := by
  unfold opReg00 at h
  split at h
  case h_3 => cases h
  all_goals
    cases h
    exact ⟨rfl, congrArg ([eaByte 0b1010 .byte r, 0x00, ·]) (byteReg_regField ‹_›)⟩

theorem isEncoding_of_opMem00 {m : MemEa} (h : opMem00 sz m op = some i) :
    IsEncoding ((SrcEa.mem m).encode sz ++ [0x00] ++ [op]) i := by
  rw [List.append_assoc]
  unfold opMem00 at h
  split at h
  case h_3 => cases h
  all_goals
    cases h
    exact ⟨rfl, congrArg (m.encode .byte ++ [0x00, ·]) (byteReg_regField ‹_›)⟩

theorem isEncoding_of_opImmOnly {j : ImmEa} (h : opImmOnly j op = some i) : IsEncoding (j.encode ++ [op]) i := by
  unfold opImmOnly at h
  split at h
  case h_4 => cases h
  all_goals
    cases h
    exact ⟨rfl, congrArg (j.encode ++ [·]) (byteReg_ctlField ‹_›)⟩

theorem faithful_opAfterReg (sz : Size) (r : Reg) (op : Byte) :
    Faithful ((SrcEa.reg r).encode sz ++ op :: bs) (opAfterReg sz r op bs) := by
  rw [List.append_cons]
  unfold opAfterReg
  split
  · next hop =>
    subst hop
    refine faithful_next8 fun op2 rest => ?_
    rw [List.append_cons]
    exact faithful_opResult fun i => isEncoding_of_opReg00
  · refine faithful_opResult fun i h => ?_
    simp only [Option.or_eq_some_iff] at h
    rcases h with h | ⟨_, h | ⟨_, h⟩⟩
    · exact isEncoding_of_opSource rfl h
    · exact isEncoding_of_opRegOnly h
    · exact isEncoding_of_opDest h

theorem faithful_opAfterMem (sz : Size) (m : MemEa) (op : Byte) :
    Faithful ((SrcEa.mem m).encode sz ++ op :: bs) (opAfterMem sz m op bs) := by
  rw [List.append_cons]
  unfold opAfterMem
  split
  case h_6 =>
    split
    · next hcode =>
      exact faithful_instr ⟨rfl, congrArg (m.encode _ ++ [·]) (byteReg_regField hcode)⟩
    · refine faithful_opResult fun i h => ?_
      rcases Option.or_eq_some_iff.1 h with h | ⟨_, h⟩
      · exact isEncoding_of_opSource rfl h
      · exact isEncoding_of_opDest (dst := .mem m) h
  all_goals obtain rfl := eq_ofNat_of_toNat_eq ‹op.toNat = _›
  case h_1 =>
    refine faithful_next8 fun op2 rest => ?_
    rw [List.append_cons]
    exact faithful_opResult fun i => isEncoding_of_opMem00
  case h_2 | h_4 => exact faithful_with8 fun v => ⟨rfl, List.append_cons ..⟩
  case h_3 | h_5 => exact faithful_with16 fun v => ⟨rfl, List.append_cons ..⟩

theorem faithful_opAfterImm {j : ImmEa} (hfits : (SrcEa.imm j).fits sz = true) (op : Byte) :
    Faithful ((SrcEa.imm j).encode sz ++ op :: bs) (opAfterImm j sz op bs) := by
  rw [List.append_cons]
  refine faithful_opResult fun i h => ?_
  rcases Option.or_eq_some_iff.1 h with h | ⟨_, h⟩
  · exact isEncoding_of_opSource hfits h
  · exact isEncoding_of_opImmOnly h

/-- After the bytes of an EA field, by its class (R98 step 5). -/
theorem faithful_opAfter {ea : SrcEa} (hfits : ea.fits sz = true) (hpre : ea.encode sz = pre) :
    Faithful (pre ++ bs) (opAfter sz ea bs) := by
  subst hpre
  refine faithful_next8 fun op rest => ?_
  cases ea with
  | reg r => exact faithful_opAfterReg sz r op
  | mem m => exact faithful_opAfterMem sz m op
  | imm j => exact faithful_opAfterImm hfits op

end Tables

/-- Six first bytes are EA fields as a whole (immediate and absolute); in the others the high nibble is the mode (R82). -/
theorem faithful_decodeGeneral {b : Byte} {d : Decoded} (h : decodeGeneral b bs = some d) : Faithful (b :: bs) d := by
  unfold decodeGeneral at h
  split at h
  case h_1 hb | h_3 hb | h_4 hb =>
    obtain rfl := eq_ofNat_of_toNat_eq hb
    cases h
    exact faithful_next8 (pre := [_]) fun v rest => faithful_opAfter (pre := [_, _]) rfl rfl
  case h_2 hb | h_5 hb | h_6 hb =>
    obtain rfl := eq_ofNat_of_toNat_eq hb
    cases h
    exact faithful_next16 (pre := [_]) fun v rest => faithful_opAfter (pre := _ :: bytes16 v) rfl rfl
  case h_7 =>
    dsimp only at h
    split at h
    case h_7 => cases h
    case h_1 hp | h_2 hp | h_3 hp | h_4 hp =>
      cases h
      exact faithful_opAfter (pre := [b]) rfl (congrArg ([·]) (eaByte_fields hp))
    case h_5 hp =>
      cases h
      exact faithful_next8 (pre := [b]) fun d rest =>
        faithful_opAfter (pre := [b, d]) rfl (congrArg ([·, d]) (eaByte_fields hp))
    case h_6 hp =>
      cases h
      exact faithful_next16 (pre := [b]) fun d rest =>
        faithful_opAfter (pre := b :: bytes16 d) rfl (congrArg (fun b => b :: bytes16 d) (eaByte_fields hp))

/-! ### The special formats -/

theorem faithful_decode11 : Faithful (0x11 :: bs) (decode11 bs) := by
  refine faithful_next8 (pre := [0x11]) fun b rest => ?_
  dsimp only
  split
  case h_1 hb =>
    obtain rfl := eq_ofNat_of_toNat_eq hb
    exact faithful_with8 (pre := [_, _]) fun v => ⟨rfl, rfl⟩
  case h_2 hb =>
    obtain rfl := eq_ofNat_of_toNat_eq hb
    exact faithful_instr (pre := [_, _]) ⟨rfl, rfl⟩
  case h_3 hb =>
    obtain rfl := eq_ofNat_of_toNat_eq hb
    exact faithful_with16 (pre := [_, _]) fun v => ⟨rfl, rfl⟩
  case h_4 =>
    split
    case h_1 hcode | h_2 hcode | h_3 hcode | h_4 hcode =>
      exact faithful_instr (pre := [0x11, b]) ⟨rfl, congrArg ([0x11, ·]) (byteReg_regField hcode)⟩
    case h_5 hcode | h_6 hcode =>
      exact faithful_with8 (pre := [0x11, b]) fun x => ⟨rfl, congrArg ([0x11, ·, x]) (byteReg_regField hcode)⟩
    case h_7 hcode | h_8 hcode =>
      exact faithful_with16 (pre := [0x11, b]) fun x =>
        ⟨rfl, congrArg (fun b => 0x11 :: b :: bytes16 x) (byteReg_regField hcode)⟩
    case h_9 => exact faithful_unassigned _

theorem faithful_decodeScb {b : Byte} {i : Reg → Byte → Instr}
    (h : ∀ n x, IsEncoding [b, byteReg 0b10111 n, x] (i n x)) : Faithful (b :: bs) (decodeScb bs i) := by
  refine faithful_next8 (pre := [b]) fun b2 rest => ?_
  split
  · next hcode =>
    refine faithful_with8 (pre := [b, b2]) fun x => ?_
    have hb2 : byteReg 0b10111 (regField b2) = b2 := byteReg_regField hcode
    simpa only [hb2, List.cons_append, List.nil_append] using h (regField b2) x
  · exact faithful_unassigned _

theorem faithful_decodeTrapa : Faithful (0x08 :: bs) (decodeTrapa bs) := by
  refine faithful_next8 (pre := [0x08]) fun b rest => ?_
  split
  · next hp =>
    exact faithful_instr (pre := [0x08, b])
      ⟨rfl, congrArg ([0x08, ·]) (byteNibble_nibbleField (opField_of_highNibble hp))⟩
  · exact faithful_unassigned _

theorem isEncoding_bcc8 (x : Byte) (c : BitVec 4) : IsEncoding [byteNibble 0b0010 c, x] (bcc8 x c) := by
  obtain ⟨c⟩ := c
  fin_cases c <;> exact ⟨rfl, rfl⟩

theorem isEncoding_bcc16 (x : Word) (c : BitVec 4) : IsEncoding (byteNibble 0b0011 c :: bytes16 x) (bcc16 x c) := by
  obtain ⟨c⟩ := c
  fin_cases c <;> exact ⟨rfl, rfl⟩

theorem faithful_decodeShort (b : Byte) : Faithful (b :: bs) (decodeShort b bs) := by
  unfold decodeShort
  dsimp only
  split
  case h_2 hcode | h_4 hcode =>
    exact faithful_with16 (pre := [b]) fun v => ⟨rfl, congrArg (fun b => b :: bytes16 v) (byteReg_regField hcode)⟩
  case h_13 => exact faithful_unassigned _
  all_goals exact faithful_with8 (pre := [b]) fun v => ⟨rfl, congrArg ([·, v]) (byteReg_regField ‹_›)⟩

/-- By the first byte: the rows that the table names, grouped by what follows the byte, then Bcc and the short formats. -/
theorem faithful_decodeSpecial (b : Byte) : Faithful (b :: bs) (decodeSpecial b bs) := by
  unfold decodeSpecial
  split
  case h_24 =>
    split
    case h_1 hp =>
      have hb : byteNibble 0b0010 (nibbleField b) = b := byteNibble_nibbleField (opField_of_highNibble hp)
      exact faithful_with8 (pre := [b]) fun x => by
        simpa only [hb, List.cons_append, List.nil_append] using isEncoding_bcc8 x (nibbleField b)
    case h_2 hp =>
      have hb : byteNibble 0b0011 (nibbleField b) = b := byteNibble_nibbleField (opField_of_highNibble hp)
      exact faithful_with16 (pre := [b]) fun x => by
        simpa only [hb, List.cons_append, List.nil_append] using isEncoding_bcc16 x (nibbleField b)
    case h_3 => exact faithful_decodeShort b
  all_goals obtain rfl := eq_ofNat_of_toNat_eq ‹b.toNat = _›
  any_goals exact faithful_instr (pre := [_]) ⟨rfl, rfl⟩
  any_goals exact faithful_with8 (pre := [_]) fun v => ⟨rfl, rfl⟩
  any_goals exact faithful_with16 (pre := [_]) fun v => ⟨rfl, rfl⟩
  any_goals exact faithful_decodeScb fun n x => ⟨rfl, rfl⟩
  any_goals exact faithful_next8 (pre := [_]) fun p rest => faithful_with16 (pre := [_, p]) fun a => ⟨rfl, rfl⟩
  · exact faithful_decodeTrapa
  · exact faithful_decode11

theorem faithful_decode (bs : List Byte) : Faithful bs (decode bs) := by
  refine faithful_next8 (pre := []) fun b rest => ?_
  cases h : decodeGeneral b rest with
  | none => exact faithful_decodeSpecial b
  | some d => exact faithful_decodeGeneral h

/-- Settles O2, by `faithful_decode`. -/
theorem decodedBytesAreTheEncoding : Obligations.DecodedBytesAreTheEncoding := faithful_decode

/-! ### The codes written out in the spec -/

theorem decodeTrapa_unassigned {b : Byte} (h : b.extractLsb' 4 4 ≠ 1) (rest : List Byte) :
    decodeTrapa (b :: rest) = .unassigned := by
  have hne : (b.extractLsb' 4 4).toNat ≠ 1 := fun he => h (BitVec.eq_of_toNat_eq he)
  exact if_neg hne

theorem decodeScb_unassigned {b : Byte} (h : b.extractLsb' 3 5 ≠ 0b10111) (rest : List Byte) (i : Reg → Byte → Instr) :
    decodeScb (b :: rest) i = .unassigned := by
  have hne : opField b ≠ 0b10111 := fun he => h (BitVec.eq_of_toNat_eq he)
  exact if_neg hne

theorem decode11_unassigned {b : Byte} (hfixed : b ∉ ([0x14, 0x19, 0x1C] : List Byte)) (hlow : b.toNat < 0xC0)
    (rest : List Byte) : decode11 (b :: rest) = .unassigned := by
  have hcode := opField_eq b
  simp only [List.mem_cons, List.not_mem_nil, or_false, not_or] at hfixed
  obtain ⟨h14, h19, h1C⟩ := hfixed
  simp only [decode11, next8]
  split
  case h_1 hb => exact absurd (eq_ofNat_of_toNat_eq hb) h14
  case h_2 hb => exact absurd (eq_ofNat_of_toNat_eq hb) h19
  case h_3 hb => exact absurd (eq_ofNat_of_toNat_eq hb) h1C
  case h_4 =>
    split
    case h_9 => rfl
    all_goals omega

/-- Settles O3: the words by evaluation, the unassigned codes by the lemma of their second byte. -/
theorem specWordsDecode : Obligations.SpecWordsDecode := by
  refine ⟨by decide, fun _ => ⟨rfl, rfl, rfl⟩, fun b rest h => ?_, fun b rest h => ?_, fun b rest hfixed hlow => ?_⟩
  · exact decodeTrapa_unassigned h rest
  · exact ⟨decodeScb_unassigned h rest _, decodeScb_unassigned h rest _, decodeScb_unassigned h rest _⟩
  · exact decode11_unassigned hfixed hlow rest

end Sys2Proof

end Decoding

/-! ## The short formats

A short format does what its general form does (30_encoding.md R94, R101): where the mode moves no register, a load of MOV:G is
a load from the address of the mode. -/

section ShortFormats

namespace Sys2Proof.Machine

theorem locateMem_fixed {sz : Size} {m : MemEa} (h : autoBase m = none) (other : Option Reg) (s : State) :
    locateMem sz other m s = .ok (.mem (memAddr sz m s) none, s) := by
  have hmode : eaRefusal sz other m = none := by simp only [eaRefusal, h]
  have heffect : memEffect sz m s = s := by
    cases m with
    | preDec | postInc => cases h
    | _ => rfl
  rw [locateMem_eq s hmode, h, heffect]

theorem exec_movGLoad_fixed {sz : Size} {m : MemEa} (h : autoBase m = none) (d : Reg) (s : State) :
    exec (.movGLoad sz (.mem m) d) s = loadFrom sz d (memAddr sz m s) s := by
  dsimp only [exec, execMovGLoad, withSource, fetchSource, loadFrom]
  rw [locateMem_fixed h]
  simp only [bind, Except.bind, State.readOp]
  cases s.readMem sz none (memAddr sz m s) <;> rfl

/-- Settles O5: the loads are MOV:G at `@aa:8` and `@(d:8,R6)`, which move no register; of an immediate and of a store both
sides compute to the same. -/
theorem shortFormsEqualGeneralForms : Obligations.ShortFormsEqualGeneralForms := by
  intro v w d s
  refine ⟨rfl, rfl, ?movLB, ?movLW, rfl, rfl, ?movFLoadB, ?movFLoadW, rfl, rfl, rfl, rfl⟩
  case movLB | movLW => exact (exec_movGLoad_fixed (m := .abs8 v) rfl d s).symm
  case movFLoadB | movFLoadW => exact (exec_movGLoad_fixed (m := .disp8 6 v) rfl d s).symm

end Sys2Proof.Machine

end ShortFormats

/-! ## InvalidInstruction

An unassigned code and the ten `<EA>` rows enter the exception of `VEC_INVALID` (60_exceptions.md R302); the return address is a
free value (R298). -/

section InvalidInstruction

namespace Sys2Proof.Machine

theorem step_unassigned {s : State} (hrun : s.runState = .running) (h : decode (fetchWindow s) = .unassigned) :
    step s = traceAfter s.sr.t (ofEntry (raiseInvalidInstruction s)) := by
  simp [step, hrun, fetchInstr, h]

theorem exec_eaRow {i : Instr} (h : i.isEaRow = true) (s : State) : exec i s = ofEntry (raiseInvalidInstruction s) := by
  cases i with
  | eaRn | eaInd | eaDisp8 | eaDisp16 | eaPreDec | eaPostInc | eaAbs8 | eaAbs16 | eaImm8 | eaImm16 => rfl
  | _ => cases h

/-- The entry draws one free value, for its return address, and completes from an even SP with its vector there. -/
theorem raiseInvalidInstruction_even {s : State} {cp : Byte} {pc : Word} (heven : s.sp.getLsbD 0 = false)
    (h : vectorGives Config.vecInvalid cp pc s) :
    ∃ t ret, raiseInvalidInstruction s = .ok t ∧ entered ret cp pc s t := by
  have hvector : vectorGives Config.vecInvalid cp pc (s.addDraws 1) := vectorGives_congr rfl rfl rfl rfl rfl h
  exact ⟨_, _, takeException_even (s := s.addDraws 1) heven hvector,
    entered_handlerEntered (s := s.addDraws 1) (Config.freeWord s.draws) cp pc heven⟩

/-- Settles O51: the step by `step_unassigned`, the rows by `exec_eaRow`, the entry of both by
`raiseInvalidInstruction_even`. -/
theorem invalidInstructionIsTaken : Obligations.InvalidInstructionIsTaken := by
  refine ⟨fun s hrun hdec => ?_, fun sz r x w cp pc s heven hvector i hi => ?_⟩
  · have hstep := step_unassigned hrun hdec
    have hclear (ht : s.sr.t = false) : step s = ofEntry (raiseInvalidInstruction s) := by
      rw [hstep, ht, traceAfter_false]
    refine ⟨hclear, fun ht => ht ▸ hstep, fun cp pc heven hvector => ?_⟩
    obtain ⟨t, ret, hraise, hentered⟩ := raiseInvalidInstruction_even heven hvector
    exact ⟨t, ret, hraise, hentered, fun ht => by rw [hclear ht, hraise, ofEntry]⟩
  · have hrow : i.isEaRow = true := (List.all_eq_true (p := Instr.isEaRow)).1 (by rfl) i hi
    obtain ⟨t, ret, hraise, hentered⟩ := raiseInvalidInstruction_even heven hvector
    exact ⟨t, ret, by rw [exec_eaRow hrow, hraise, ofEntry], hentered⟩

end Sys2Proof.Machine

end InvalidInstruction

/-! ## Data transfer

What a load, a store and an exchange leave in the state (40_data_transfer.md). The general forms come first, over any operand;
the short moves are the general forms at `@aa:8` and `@(d:8,R6)` (R94); LDM and STM go register by register (R130, R131). -/

section DataTransfer

namespace Sys2Proof.Machine

/-! ### Loads -/

theorem logicFlags_eq {n : Nat} (v : BitVec n) (old : Flags) :
    logicFlags v old = { n := v.msb, z := decide (v = 0), v := false, c := old.c } := rfl

theorem setFlags_self (s : State) : s.setFlags s.flags = s := rfl

/-- A source operand is read without a change of the flags. -/
theorem fetchSource_flags {sz : Size} {other : Option Reg} {src : SrcEa} {s s1 : State} {v : BitVec sz.bits}
    (h : fetchSource sz other src s = .ok (v, s1)) : s1.flags = s.flags :=
  congrArg Status.flags (fetchSource_read h).sr

theorem exec_movGLoad_wroteReg {sz : Size} {src : SrcEa} {d : Reg} {v : BitVec sz.bits} {s s1 : State}
    (h : fetchSource sz (some d) src s = .ok (v, s1)) :
    ∃ t, exec (.movGLoad sz src d) s = .next t ∧
      wroteReg sz src d v { n := v.msb, z := decide (v = 0), v := false, c := s.flags.c } s t := by
  have hexec : exec (.movGLoad sz src d) s = .next ((s1.setRegOp sz d v).setFlags (logicFlags v s1.flags)) :=
    withSource_ok h _
  refine ⟨_, hexec, ?_⟩
  rw [fetchSource_flags h, logicFlags_eq]
  exact wroteReg_of h v _

/-- Settles O19: MOVFPE writes the flags it finds. -/
theorem loadResult : Obligations.LoadResult := by
  refine ⟨fun sz src d v s s1 => exec_movGLoad_wroteReg, fun m d v s s1 h => ?_⟩
  have hexec : exec (.movfpe m d) s = .next (s1.setRegOp .byte d v) :=
    withSource_ok h fun v s1 => .ok (s1.setRegOp .byte d v)
  have hflags : (s1.setRegOp .byte d v).flags = s.flags := (s1.setRegOp_flags .byte d v).trans (fetchSource_flags h)
  refine ⟨_, hexec, ?_⟩
  rw [← setFlags_self (s1.setRegOp .byte d v), hflags]
  exact wroteReg_of h v s.flags

/-- Settles O20: MOV:I.W is the load of a word immediate. -/
theorem movImmediateWord : Obligations.MovImmediateWord := by
  refine ⟨fun v d s => ⟨rfl, ?_⟩, rfl, fun s => ⟨_, rfl, ?_, ?_⟩⟩
  · have hfetch : fetchSource .word (some d) (.imm (.imm16 v)) s = .ok (v, s) := by simp [fetchSource, immValue]
    obtain ⟨t, hexec, hreg, _, hflags, hpc, _, hframed⟩ := exec_movGLoad_wroteReg hfetch
    refine ⟨t, hexec, ?_, ?_, hpc, hframed⟩
    · simpa [State.regOp] using hreg
    · rw [hflags, BitVec.msb_eq_getLsbD_last]
      rfl
  · simp [State.setRegOp]
  · rfl

/-! ### Stores -/

/-- A register that is not the base of a memory mode has its operand still after the side effect. -/
theorem memEffect_regOp {sz : Size} {m : MemEa} {r : Reg} (h : eaRefusal sz (some r) m = none) (s : State) :
    (memEffect sz m s).regOp sz r = s.regOp sz r :=
  congrArg (BitVec.setWidth sz.bits) (memEffect_reg_ne sz m s r (autoBase_ne h))

/-- A word operand alone is never refused. -/
theorem eaRefusal_word (m : MemEa) : eaRefusal .word none m = none := by
  unfold eaRefusal
  split <;> simp

/-- Every store: a value and flags that are those of `v` and `g` in the state after the side effect of the mode. -/
theorem putDest_wroteOperand {sz : Size} {other : Option Reg} {m : MemEa} {s : State} {v : State → BitVec sz.bits}
    {g : State → Flags} {w : BitVec sz.bits} {f : Flags} (hmode : eaRefusal sz other m = none)
    (haligned : aligned sz (memAddr sz m s) = true) (hv : v (memEffect sz m s) = w) (hg : g (memEffect sz m s) = f) :
    ∃ t, putDest sz (.mem m) other s v g = .next t ∧
      wroteOperand sz (.mem m) (.mem (memAddr sz m s) (autoBase m)) w s t ∧ t.flags = f := by
  subst hv hg
  have hlocate : locateDst sz other (.mem m) s = .ok (.mem (memAddr sz m s) (autoBase m), memEffect sz m s) :=
    locateMem_eq s hmode
  have hlies : ∀ a auto, Loc.mem (memAddr sz m s) (autoBase m) = .mem a auto → aligned sz a = true := by
    rintro _ _ ⟨⟩
    exact haligned
  exact ⟨_, putDest_ok hlocate (writeOp_aligned hlies _), wroteOperand_of (locateDst_located hlocate) hlies _ _ 0, rfl⟩

theorem exec_movGStore_wroteOperand {sz : Size} {m : MemEa} {r : Reg} {s : State}
    (haligned : aligned sz (memAddr sz m s) = true) (hmode : eaRefusal sz (some r) m = none) :
    ∃ t, exec (.movGStore sz r m) s = .next t ∧
      wroteOperand sz (.mem m) (.mem (memAddr sz m s) (autoBase m)) (s.regOp sz r) s t ∧
      t.flags = logicFlags (s.regOp sz r) s.flags := by
  dsimp only [exec, execMovGStore]
  exact putDest_wroteOperand hmode haligned (memEffect_regOp hmode s) (by rw [memEffect_regOp hmode, memEffect_flags])

/-- Settles O22: each is `putDest_wroteOperand` at its value and flags. -/
theorem storeResult : Obligations.StoreResult := by
  intro sz m r x w s moved l
  refine ⟨exec_movGStore_wroteOperand, fun haligned hmode => ?movGImm8, fun heven => ?movGImm16, fun hmode => ?movtpe,
    fun heven => ?stc⟩
  case movGImm8 =>
    dsimp only [exec, execMovGImm8]
    exact putDest_wroteOperand hmode haligned rfl (by rw [memEffect_flags, logicFlags_eq])
  case movGImm16 =>
    dsimp only [exec, execMovGImm16]
    exact putDest_wroteOperand (eaRefusal_word m) heven rfl (by rw [memEffect_flags, logicFlags_eq])
  case movtpe =>
    dsimp only [exec, execMovtpe]
    exact putDest_wroteOperand hmode rfl (memEffect_regOp hmode s) (memEffect_flags _ _ _)
  case stc =>
    have hvalue : readCtl 16 .sr (memEffect .word m s) = s.sr.toWord := by simp [readCtl]
    dsimp only [exec, execStc]
    rw [onAllowed_of rfl]
    exact putDest_wroteOperand (eaRefusal_word m) heven hvalue (memEffect_flags _ _ _)

/-! ### The short moves -/

theorem readByte_ok {s : State} {a : Addr} {v : Byte} (h : s.readByte a = .ok v) : s.byteAt a = some v := by
  unfold State.readByte at h
  split at h
  · cases h
    assumption
  · cases h

/-- A mode that moves no register is not refused (20_memory.md R70). -/
theorem eaRefusal_fixed {m : MemEa} (h : autoBase m = none) (sz : Size) (other : Option Reg) :
    eaRefusal sz other m = none := by
  simp only [eaRefusal, h]

theorem exec_movGLoad_fixed_wroteReg {sz : Size} {m : MemEa} {v : BitVec sz.bits} {s : State} (hfixed : autoBase m = none)
    (d : Reg) (hread : s.readMem sz (autoBase m) (memAddr sz m s) = .ok v) :
    ∃ t, exec (.movGLoad sz (.mem m) d) s = .next t ∧
      wroteReg sz (.mem m) d v { n := v.msb, z := decide (v = 0), v := false, c := s.flags.c } s t :=
  exec_movGLoad_wroteReg (fetchSource_mem (eaRefusal_fixed hfixed sz _) hread)

theorem dstAuto_fixed {m : MemEa} (h : autoBase m = none) : dstAuto (.mem m) = [] := by
  simp only [dstAuto, memAuto, h, Option.toList_none]

/-- A byte store at a mode that moves no register. -/
theorem exec_movGStore_byte {m : MemEa} (hfixed : autoBase m = none) (r : Reg) (s : State) :
    ∃ t, exec (.movGStore .byte r m) s = .next t ∧ t.byteAt (memAddr .byte m s) = some (s.regOp .byte r) ∧
      t.flags = logicFlags (s.regOp .byte r) s.flags ∧ t.pc = s.pc ∧ framed [] [memAddr .byte m s] s t := by
  obtain ⟨t, hexec, ⟨hread, hpc, _, hframed⟩, hflags⟩ :=
    exec_movGStore_wroteOperand (sz := .byte) (m := m) (r := r) (s := s) rfl (eaRefusal_fixed hfixed _ _)
  rw [dstAuto_fixed hfixed] at hframed
  exact ⟨t, hexec, readByte_ok hread, hflags, hpc, hframed⟩

theorem exec_movGStore_word {m : MemEa} {s : State} (hfixed : autoBase m = none) (r : Reg)
    (heven : isEven (memAddr .word m s) = true) :
    ∃ t, exec (.movGStore .word r m) s = .next t ∧ t.wordAt (memAddr .word m s) = some (s.reg r) ∧
      t.flags = logicFlags (s.reg r) s.flags ∧ t.pc = s.pc ∧
      framed [] [memAddr .word m s, memAddr .word m s + 1] s t := by
  obtain ⟨t, hexec, ⟨hread, hpc, _, hframed⟩, hflags⟩ :=
    exec_movGStore_wroteOperand (sz := .word) (r := r) heven (eaRefusal_fixed hfixed _ _)
  have hvalue : s.regOp .word r = s.reg r := BitVec.setWidth_eq _
  rw [dstAuto_fixed hfixed] at hframed
  rw [hvalue] at hread hflags
  exact ⟨t, hexec, (readWord_ok hread).2, hflags, hpc, hframed⟩

/-- Settles O21: a short move is MOV:G (`shortFormsEqualGeneralForms`), at a mode that moves no register. -/
theorem shortMoveResult : Obligations.ShortMoveResult := by
  refine ⟨fun x d s => ?_, fun x r s => ?_⟩
  · obtain ⟨hmovE, _, hmovLB, hmovLW, _, _, hmovFLoadB, hmovFLoadW, _⟩ := shortFormsEqualGeneralForms x 0 d s
    rw [hmovE, hmovLB, hmovLW, hmovFLoadB, hmovFLoadW]
    have hfetch : fetchSource .byte (some d) (.imm (.imm8 x)) s = .ok (x, s) := by simp [fetchSource, immValue]
    exact ⟨exec_movGLoad_wroteReg hfetch,
      fun v => ⟨fun hbyte => exec_movGLoad_fixed_wroteReg rfl d (readMem_byte none hbyte),
        fun hbyte => exec_movGLoad_fixed_wroteReg rfl d (readMem_byte none hbyte)⟩,
      fun v => ⟨fun heven hword => exec_movGLoad_fixed_wroteReg rfl d (readWord_even none heven hword),
        fun heven hword => exec_movGLoad_fixed_wroteReg rfl d (readWord_even none heven hword)⟩⟩
  · intro a b moved
    obtain ⟨_, _, _, _, hmovSB, hmovSW, _, _, hmovFStoreB, hmovFStoreW, _⟩ := shortFormsEqualGeneralForms x 0 r s
    rw [hmovSB, hmovSW, hmovFStoreB, hmovFStoreW]
    exact ⟨exec_movGStore_byte (m := .abs8 x) rfl r s, exec_movGStore_byte (m := .disp8 6 x) rfl r s,
      exec_movGStore_word (m := .abs8 x) rfl r, exec_movGStore_word (m := .disp8 6 x) rfl r⟩

/-! ### XCH and SWAP -/

/-- Two registers that are written and no other. -/
theorem framed_setReg_setReg (s : State) (a b : Reg) (v w : Word) : framed [a, b] [] s ((s.setReg b v).setReg a w) :=
  ((framed_setReg s b v).mono (by simp) (by simp)).trans ((framed_setReg (s.setReg b v) a w).mono (by simp) (by simp))

theorem setReg_self (s : State) (r : Reg) : s.setReg r (s.reg r) = s := by
  simp [State.setReg, State.reg]

/-- The codes of XCH belong to no table of a byte register (30_encoding.md R99). -/
theorem opAfter_byteReg_xch (a b : Reg) :
    opAfter .byte (.reg a) [byteReg 0b10010 b] = .instr (.eaRn .byte a) [] := by
  have hfield : opField (byteReg 0b10010 b) = 18 := opField_byteReg _ _
  have hge : 8 ≤ (byteReg 0b10010 b).toNat := by
    rw [toNat_byteReg]
    simp
    omega
  have hsource : opSource .byte (.reg a) (byteReg 0b10010 b) = none := opSource_eq_none (by omega)
  have hreg : opRegOnly .byte a (byteReg 0b10010 b) = none := by simp [opRegOnly]
  have hdest : opDest .byte (.reg a) (byteReg 0b10010 b) = none := by
    refine Option.eq_none_iff_forall_ne_some.2 fun i hi => ?_
    have := opDest_codes hi
    have := opField_eq (byteReg 0b10010 b)
    omega
  rw [opAfter_reg hge, hsource, hreg, hdest]
  rfl

/-- Settles O23: the encodings by the decoder's lemmas, the exchange by the two register writes. -/
theorem exchangeRegisters : Obligations.ExchangeRegisters := by
  refine ⟨fun a b s => ⟨rfl, ⟨_, rfl, ?_, ?_, rfl, rfl, framed_setReg_setReg s a b _ _⟩, ⟨s, ?_, rfl, rfl, framed_refl _ _ s⟩,
    (decode_regEa .byte a _).trans (opAfter_byteReg_xch a b)⟩, rfl, fun s h1 h2 => ⟨_, rfl, ?_, ?_⟩⟩
  · simp
  · by_cases h : b = a <;> simp [h]
  · dsimp only [exec, execXch]
    rw [setReg_self, setReg_self]
  · simp [h2]
  · simp [h1]

/-- Where the byte reading and the word reading of a condition agree, the flag is the condition; elsewhere it is free
(U9). -/
theorem agreed_eq {byteReading wordReading p free : Bool} (hword : wordReading = p) (hbyte : byteReading = p) :
    (if wordReading = byteReading then wordReading else free) = p := by
  rw [hword, hbyte, if_pos rfl]

/-- Settles O24: of the two readings of Z, both hold of a zero result, and neither of one whose low byte is not zero. -/
theorem swapResult : Obligations.SwapResult := by
  intro d s
  refine ⟨_, rfl, ?_⟩
  simp only [State.addDraws_reg, State.setFlags_reg, State.reg_setReg, if_pos]
  refine ⟨BitVec.extractLsb'_append_eq_right, BitVec.extractLsb'_append_eq_left, rfl, rfl, fun hagree => if_pos hagree,
    fun hzero => ?zero, fun hlow => ?nonzero, rfl,
    (framed_setReg s d _).trans ((framed_setFlags _ _).mono (by simp) (by simp))⟩
  case zero => exact agreed_eq (by rw [hzero]; rfl) (by rw [hzero]; rfl)
  case nonzero =>
    refine agreed_eq (beq_false_of_ne fun hzero => hlow ?_) (beq_false_of_ne hlow)
    rw [hzero]
    rfl

/-! ### Register lists -/

theorem listedRegs_ascending (list : Byte) : (listedRegs list).Pairwise (· < ·) :=
  List.Pairwise.filter _ (by decide)

theorem mem_listedRegs {list : Byte} {r : Reg} : r ∈ listedRegs list ↔ r ≠ 7 ∧ list.getLsbD r.val = true := by
  have hall : r ∈ ([0, 1, 2, 3, 4, 5, 6] : List Reg) ↔ r ≠ 7 := by
    revert r
    decide
  rw [listedRegs, List.mem_filter, hall]

theorem spIndex_notMem_listedRegs (list : Byte) : Config.spIndex ∉ listedRegs list := fun h => (mem_listedRegs.1 h).1 rfl

theorem listedRegs_length_le (list : Byte) : (listedRegs list).length ≤ 7 := List.length_filter_le _ _

theorem listedRegs_nodup (list : Byte) : (listedRegs list).Nodup := (listedRegs_ascending list).imp ne_of_lt

theorem even_iff (a : Word) : a.getLsbD 0 = false ↔ a.toNat % 2 = 0 := by
  simp [BitVec.getLsbD, Nat.testBit_zero]

/-- An even offset stays even when whole words are added to it or taken from it. -/
theorem add_words_even {a : Word} (h : a.getLsbD 0 = false) (j : Nat) : (a + BitVec.ofNat 16 (2 * j)).getLsbD 0 = false := by
  rw [even_iff] at h ⊢
  bv_omega

theorem sub_words_even {a : Word} (h : a.getLsbD 0 = false) (j : Nat) : (a - BitVec.ofNat 16 (2 * j)).getLsbD 0 = false := by
  rw [even_iff] at h ⊢
  bv_omega

/-! ### STM -/

/-- `t` is `s` after the registers `rs` were pushed, the last one first (R131). -/
structure RegsPushed (rs : List Reg) (s t : State) : Prop where
  sp : t.sp = s.sp - BitVec.ofNat 16 (2 * rs.length)
  words : ∀ (j : Nat) (h : j < rs.length),
    t.wordAt (phys s .stack (t.sp + BitVec.ofNat 16 (2 * j))) = some (s.reg rs[j])
  flags : t.flags = s.flags
  pc : t.pc = s.pc
  framed : framed [Config.spIndex] (stackBytes s rs.length) s t

theorem RegsPushed.nil (s : State) : RegsPushed [] s s where
  sp := by simp
  words _ h := absurd h (by simp)
  flags := rfl
  pc := rfl
  framed := framed_refl _ _ s

theorem framed_pushRaw (s : State) (v : Word) : framed [Config.spIndex] (stackBytes s 1) s (s.pushRaw v) :=
  ⟨fun r hr => s.pushRaw_reg v r (by simpa using hr), ⟨rfl, rfl, rfl, rfl, rfl, rfl, rfl, rfl, rfl⟩, sameMemory_pushRaw s v⟩

/-- The word below the SP of `t` is the next one below the words pushed so far. -/
theorem RegsPushed.stackBytes_one {rs : List Reg} {s t : State} (h : RegsPushed rs s t) :
    ∀ a ∈ stackBytes t 1, a ∈ stackBytes s (rs.length + 1) := by
  obtain ⟨hmode, _, _, _, _, _, _, htp, _⟩ := h.framed.2.1
  intro a ha
  simp only [stackBytes, List.mem_flatMap, List.mem_range, phys_stack_congr hmode htp, h.sp] at ha ⊢
  obtain ⟨j, hj, ha⟩ := ha
  obtain rfl : j = 0 := by omega
  refine ⟨rs.length, by omega, ?_⟩
  rwa [show s.sp - BitVec.ofNat 16 (2 * rs.length + 2) =
    s.sp - BitVec.ofNat 16 (2 * rs.length) - BitVec.ofNat 16 (2 * 0 + 2) by bv_omega]

/-- One more register: its word goes below the others, which fit in the page together with it. -/
theorem RegsPushed.cons {rs : List Reg} {s t : State} (h : RegsPushed rs s t) (heven : s.sp.getLsbD 0 = false)
    (hlen : rs.length < 2 ^ 15) (r : Reg) : RegsPushed (r :: rs) s (t.pushRaw (s.reg r)) := by
  obtain ⟨hmode, _, _, _, _, _, _, htp, _⟩ := h.framed.2.1
  have hteven : t.sp.getLsbD 0 = false := h.sp ▸ sub_words_even heven rs.length
  have hphys : phys t .stack = phys s .stack := funext (phys_stack_congr hmode htp)
  have hword (j : Nat) : (t.pushRaw (s.reg r)).wordAt (phys s .stack (t.sp - 2 + BitVec.ofNat 16 (2 * j))) =
      if phys s .stack (t.sp - 2 + BitVec.ofNat 16 (2 * j)) = phys s .stack (t.sp - 2) then some (s.reg r)
      else t.wordAt (phys s .stack (t.sp - 2 + BitVec.ofNat 16 (2 * j))) := by
    rw [← hphys]
    exact t.pushRaw_wordAt _ _ hteven (isEven_of_offset _ _ _ (add_words_even (sub_two_even _ hteven) j))
  refine ⟨?_, fun j hj => ?_, h.flags, h.pc, ?_⟩
  · rw [State.pushRaw_sp, h.sp, List.length_cons]
    bv_omega
  · rw [State.pushRaw_sp, hword]
    cases j with
    | zero => rw [if_pos (by simp)]; rfl
    | succ j =>
      have hj : j < rs.length := by simpa using hj
      rw [if_neg (phys_ne (by bv_omega)),
        show t.sp - 2 + BitVec.ofNat 16 (2 * (j + 1)) = t.sp + BitVec.ofNat 16 (2 * j) by bv_omega, h.words j hj]
      rfl
  · exact (h.framed.mono (fun _ hr => hr) (stackBytes_mono s (Nat.le_succ _))).trans
      ((framed_pushRaw t _).mono (fun _ hr => hr) h.stackBytes_one)

theorem pushAll_append (xs ys : List Reg) (s : State) : pushAll (xs ++ ys) s = pushAll xs s >>= pushAll ys := by
  induction xs generalizing s with
  | nil => rfl
  | cons x xs ih =>
    simp only [List.cons_append, pushAll, bind_assoc]
    exact congrArg _ (funext ih)

/-- From an even SP all registers are pushed. -/
theorem pushAll_reverse {rs : List Reg} {s : State} (heven : s.sp.getLsbD 0 = false) (hsp : Config.spIndex ∉ rs)
    (hlen : rs.length ≤ 2 ^ 15) : ∃ t, pushAll rs.reverse s = .ok t ∧ RegsPushed rs s t := by
  induction rs with
  | nil => exact ⟨s, rfl, .nil s⟩
  | cons r rest ih =>
    obtain ⟨hne, hrest⟩ := not_or.1 (mt List.mem_cons.2 hsp)
    rw [List.length_cons] at hlen
    obtain ⟨t, hpush, ht⟩ := ih hrest (by omega)
    have hreg : t.reg r = s.reg r := ht.framed.1 r (by simpa using Ne.symm hne)
    have hlast : pushAll [r] t = .ok (t.pushRaw (s.reg r)) := by
      simp only [pushAll, push16_even t _ (ht.sp ▸ sub_words_even heven _), hreg, bind, Except.bind]
    refine ⟨_, ?_, ht.cons heven (by omega) r⟩
    rw [List.reverse_cons, pushAll_append, hpush]
    exact hlast

theorem exec_stm_even {list : Byte} {s : State} (hlist : list.getLsbD 7 = false) (heven : s.sp.getLsbD 0 = false) :
    ∃ t, exec (.stm list) s = .next t ∧ RegsPushed (listedRegs list) s t := by
  have hlen := listedRegs_length_le list
  obtain ⟨t, hpush, ht⟩ := pushAll_reverse heven (spIndex_notMem_listedRegs list) (by omega)
  refine ⟨t, ?_, ht⟩
  dsimp only [exec, execStm]
  rw [hlist, hpush]
  rfl

/-! ### LDM -/

/-- `t` is `s` after the registers `rs` were popped, the first one first (R130). -/
structure RegsPopped (rs : List Reg) (s t : State) : Prop where
  sp : t.sp = s.sp + BitVec.ofNat 16 (2 * rs.length)
  words : ∀ (j : Nat) (h : j < rs.length),
    s.wordAt (phys s .stack (s.sp + BitVec.ofNat 16 (2 * j))) = some (t.reg rs[j])
  flags : t.flags = s.flags
  pc : t.pc = s.pc
  framed : framed (Config.spIndex :: rs) [] s t

theorem RegsPopped.nil (s : State) : RegsPopped [] s s where
  sp := by simp
  words _ h := absurd h (by simp)
  flags := rfl
  pc := rfl
  framed := framed_refl _ _ s

/-- A popped register that is not SP leaves SP past its word. -/
theorem sp_afterPop (s : State) {r : Reg} (w : Word) (h : r ≠ Config.spIndex) :
    ((s.setSp (s.sp + 2)).setReg r w).sp = s.sp + 2 := by
  simp [State.sp_eq, State.setSp_eq, Ne.symm h]

/-- One register more: the word at SP is its value, and no later pop writes it. -/
theorem RegsPopped.cons {r : Reg} {rest : List Reg} {s t : State} {w : Word}
    (h : RegsPopped rest ((s.setSp (s.sp + 2)).setReg r w) t) (hw : s.wordAt (phys s .stack s.sp) = some w)
    (hsp : r ≠ Config.spIndex) (hrest : r ∉ rest) : RegsPopped (r :: rest) s t := by
  have hmid := sp_afterPop s w hsp
  refine ⟨?_, fun j hj => ?_, h.flags, h.pc, ?_⟩
  · rw [h.sp, hmid, List.length_cons]
    bv_omega
  · cases j with
    | zero =>
      have hkept : t.reg r = w := by
        rw [h.framed.1 r (by simp [hsp, hrest])]
        simp
      simpa [hkept] using hw
    | succ j =>
      have hj : j < rest.length := by simpa using hj
      have hword := h.words j hj
      rw [hmid, State.setReg_wordAt, State.setSp_wordAt, phys_setReg, phys_setSp] at hword
      rw [show s.sp + BitVec.ofNat 16 (2 * (j + 1)) = s.sp + 2 + BitVec.ofNat 16 (2 * j) by bv_omega, hword]
      rfl
  · have hpop : Machine.framed [r, Config.spIndex] [] s ((s.setSp (s.sp + 2)).setReg r w) := framed_setReg_setReg s r _ _ w
    exact (hpop.mono (by simp) (by simp)).trans (h.framed.mono (by simp +contextual) (by simp))

/-- From an even SP all registers are popped, where the words are there. -/
theorem popAll_words {rs : List Reg} {s : State} (heven : s.sp.getLsbD 0 = false) (hsp : Config.spIndex ∉ rs)
    (hnodup : rs.Nodup)
    (hwords : ∀ j < rs.length, ∃ w, s.wordAt (phys s .stack (s.sp + BitVec.ofNat 16 (2 * j))) = some w) :
    ∃ t, popAll rs s = .ok t ∧ RegsPopped rs s t := by
  induction rs generalizing s with
  | nil => exact ⟨s, rfl, .nil s⟩
  | cons r rest ih =>
    obtain ⟨hne, hsp⟩ := not_or.1 (mt List.mem_cons.2 hsp)
    obtain ⟨hrest, hnodup⟩ := List.nodup_cons.1 hnodup
    obtain ⟨w, hw⟩ := hwords 0 (by simp)
    replace hw : s.wordAt (phys s .stack s.sp) = some w := by simpa using hw
    have hmid := sp_afterPop s w (Ne.symm hne)
    have heven' : ((s.setSp (s.sp + 2)).setReg r w).sp.getLsbD 0 = false := by
      rw [hmid]
      exact add_two_even _ heven
    obtain ⟨t, hpop, ht⟩ := ih heven' hsp hnodup fun j hj => by
      rw [hmid, State.setReg_wordAt, State.setSp_wordAt, phys_setReg, phys_setSp,
        show s.sp + 2 + BitVec.ofNat 16 (2 * j) = s.sp + BitVec.ofNat 16 (2 * (j + 1)) by bv_omega]
      exact hwords (j + 1) (by simpa using hj)
    refine ⟨t, ?_, ht.cons hw (Ne.symm hne) hrest⟩
    simp only [popAll, pop16_even none heven hw, bind, Except.bind, hpop]

theorem exec_ldm_even {list : Byte} {s : State} (hlist : list.getLsbD 7 = false) (heven : s.sp.getLsbD 0 = false)
    (hwords : ∀ j < (listedRegs list).length, ∃ w, s.wordAt (phys s .stack (s.sp + BitVec.ofNat 16 (2 * j))) = some w) :
    ∃ t, exec (.ldm list) s = .next t ∧ RegsPopped (listedRegs list) s t := by
  obtain ⟨t, hpop, ht⟩ := popAll_words heven (spIndex_notMem_listedRegs list) (listedRegs_nodup list) hwords
  refine ⟨t, ?_, ht⟩
  dsimp only [exec, execLdm]
  rw [hlist, hpop]
  rfl

/-- Settles O25: `RegsPushed` and `RegsPopped` of the listed registers. -/
theorem registerListResult : Obligations.RegisterListResult := by
  refine ⟨fun list hlist => ⟨listedRegs_ascending list, fun r => ?_⟩, fun list s hlist heven => ?_,
    fun list s hlist heven => ?_⟩
  · rw [mem_listedRegs]
    refine and_iff_right_of_imp ?_
    rintro hbit rfl
    exact absurd (hlist.symm.trans hbit) (by decide)
  · obtain ⟨t, hexec, ht⟩ := exec_stm_even hlist heven
    exact ⟨t, hexec, ht.sp, ht.words, ht.flags, ht.pc, ht.framed⟩
  · intro rs hwords
    obtain ⟨t, hexec, ht⟩ := exec_ldm_even hlist heven hwords
    exact ⟨t, hexec, ht.sp, ht.words, ht.flags, ht.pc, ht.framed⟩

/-! ### LDM after STM -/

/-- Writing the registers `rs` leaves the others, every control register and memory. -/
theorem framed_foldl_setReg (rs : List Reg) (v : Reg → Word) (s : State) :
    framed rs [] s (rs.foldl (fun u r => u.setReg r (v r)) s) := by
  induction rs generalizing s with
  | nil => exact framed_refl _ _ s
  | cons r rest ih =>
    exact ((framed_setReg s r (v r)).mono (by simp) (by simp)).trans
      ((ih (s.setReg r (v r))).mono (by simp +contextual) (by simp))

/-- Settles O26: the words LDM pops are those STM pushed, since writing registers leaves SP and memory. -/
theorem ldmUndoesStm : Obligations.LdmUndoesStm := by
  intro list s t heven hstm other t'
  have hlist : list.getLsbD 7 = false := by
    by_contra h
    rw [Bool.not_eq_false] at h
    have hrefused : exec (.stm list) s = .refused .stackPointerInList := if_pos h
    rw [hrefused] at hstm
    cases hstm
  obtain ⟨t₀, hexec, ht⟩ := exec_stm_even hlist heven
  rw [Host.Outcome.next.inj (hexec.symm.trans hstm)] at ht
  obtain ⟨hregs, hcontrol, hmem⟩ := framed_foldl_setReg (listedRegs list) other t
  obtain ⟨hmode, _, _, _, _, _, _, htp, _⟩ := ht.framed.2.1.trans hcontrol
  have hsp : t'.sp = t.sp := hregs _ (spIndex_notMem_listedRegs list)
  have hwords (j : Nat) (hj : j < (listedRegs list).length) :
      t'.wordAt (phys t' .stack (t'.sp + BitVec.ofNat 16 (2 * j))) = some (s.reg (listedRegs list)[j]) := by
    rw [wordAt_congr (hmem _ (by simp)) (hmem _ (by simp)), hsp, phys_stack_congr hmode htp]
    exact ht.words j hj
  have heven' : t'.sp.getLsbD 0 = false := by
    rw [hsp, ht.sp]
    exact sub_words_even heven _
  obtain ⟨u, hldm, hu⟩ := exec_ldm_even hlist heven' fun j hj => ⟨_, hwords j hj⟩
  refine ⟨u, hldm, ?_, fun r hr => ?_⟩
  · rw [hu.sp, hsp, ht.sp, BitVec.sub_add_cancel]
  · obtain ⟨j, hj, rfl⟩ := List.getElem_of_mem hr
    exact Option.some.inj ((hu.words j hj).symm.trans (hwords j hj))

end Sys2Proof.Machine

end DataTransfer

/-! ## Arithmetic

What the arithmetic instructions leave in the state (41_arithmetic.md, 43_logic.md R209): the skeletons of Machine/Operands first,
each with the operand read, then the families. -/

section Arithmetic

namespace Sys2Proof.Machine

/-! ### The skeletons of the arithmetic instructions -/

/-- The register operand has its operand still after the source has been read. -/
theorem fetchSource_regOp {sz : Size} {src : SrcEa} {d : Reg} {b : BitVec sz.bits} {s s1 : State}
    (h : fetchSource sz (some d) src s = .ok (b, s1)) : s1.regOp sz d = s.regOp sz d :=
  congrArg (BitVec.setWidth sz.bits) (fetchSource_reg h)

/-- `OP <EAs>,Rd` whose operand is read: the result and the flags are those of `f` and `g`. -/
theorem aluRd_wroteReg {sz : Size} {src : SrcEa} {d : Reg} {b r : BitVec sz.bits} {fl : Flags} {s s1 : State}
    {f : State → BitVec sz.bits → BitVec sz.bits → BitVec sz.bits} {g : State → BitVec sz.bits → BitVec sz.bits → Flags}
    (h : fetchSource sz (some d) src s = .ok (b, s1)) (hf : f s1 (s.regOp sz d) b = r) (hg : g s1 (s.regOp sz d) b = fl) :
    ∃ t, aluRd sz src d s f g = .next t ∧ wroteReg sz src d r fl s t := by
  have hexec : aluRd sz src d s f g =
      .next ((s1.setRegOp sz d (f s1 (s1.regOp sz d) b)).setFlags (g s1 (s1.regOp sz d) b)) := withSource_ok h _
  rw [fetchSource_regOp h, hf, hg] at hexec
  exact ⟨_, hexec, wroteReg_of h r fl⟩

/-- `OP <EAd>` whose operand is read: it is written back and the flags are set. -/
theorem modifyOp_wroteOperand {sz : Size} {other : Option Reg} {dst : DstEa} {v r : BitVec sz.bits} {fl : Flags} {l : Loc}
    {s s1 : State} {f : State → BitVec sz.bits → BitVec sz.bits} {g : State → BitVec sz.bits → Flags}
    (h : fetchDest sz other dst s = .ok (v, l, s1)) (hf : f s1 v = r) (hg : g s1 v = fl) :
    ∃ t, modifyOp sz dst other s f g = .next t ∧ wroteOperand sz dst l r s t ∧ t.flags = fl := by
  subst hf hg
  have haligned := fetchDest_aligned h
  exact ⟨_, modifyOp_ok h (writeOp_aligned haligned _), wroteOperand_of (fetchDest_located h) haligned _ _ 0, rfl⟩

/-- `OP <EAd>` that is read and not written. -/
theorem testOp_testedOperand {sz : Size} {other : Option Reg} {dst : DstEa} {v : BitVec sz.bits} {l : Loc} {s s1 : State}
    (g : State → BitVec sz.bits → Flags) (h : fetchDest sz other dst s = .ok (v, l, s1)) :
    ∃ t, testOp sz dst other s g = .next t ∧ testedOperand sz dst (g s1 v) s t :=
  ⟨_, testOp_ok h, testedOperand_of (fetchDest_located h) _⟩

/-- Setting the flags last changes no frame. -/
theorem framed.setFlags_after {rs : List Reg} {bytes : List Addr} {s t : State} (h : framed rs bytes s t) (f : Flags) :
    framed rs bytes s (t.setFlags f) := h.trans ((framed_setFlags t f).mono (by simp) (by simp))

/-! ### Addition and subtraction -/

theorem addWith_false {n : Nat} (a b : BitVec n) : addWith a b false = a + b := by
  simp [addWith, BitVec.ofNat_add]

theorem subWith_false {n : Nat} (a b : BitVec n) : subWith a b false = a - b := by
  simp [subWith, Int.sub_eq_add_neg, BitVec.ofInt_add, BitVec.ofInt_neg, BitVec.sub_eq_add_neg]

/-- With `Z_STICKY` Z of an extended operation can only be cleared (41_arithmetic.md R155, D11). -/
theorem stickyFlags_eq (old new : Flags) : stickyFlags old new = { new with z := old.z && new.z } := rfl

/-- A word written to Rd after the source was read (R154, R158). -/
theorem setReg_afterSource {sz : Size} {src : SrcEa} {d : Reg} {b : BitVec sz.bits} {s s1 : State}
    (h : fetchSource sz (some d) src s = .ok (b, s1)) (w : Word) :
    (s1.setReg d w).reg d = w ∧ (s1.setReg d w).flags = s.flags ∧ (s1.setReg d w).pc = s.pc ∧
      srcMoved sz src s (s1.setReg d w) ∧ framed (d :: srcAuto src) [] s (s1.setReg d w) :=
  ⟨by simp, (s1.setReg_flags d w).trans (fetchSource_flags h), (fetchSource_read h).write (framed_setReg s1 d w)
    (fun q hq hm => fetchSource_ne h (List.mem_singleton.1 hm ▸ hq)) rfl⟩

/-- ADD:Q: adding `k` as an n-bit number is adding it as an integer and wrapping. -/
theorem addQuick_wroteOperand {sz : Size} {dst : DstEa} {v : BitVec sz.bits} {l : Loc} {s s1 : State} (k : Int)
    (h : fetchDest sz none dst s = .ok (v, l, s1)) :
    ∃ t, addQuick sz k dst s = .next t ∧ wroteOperand sz dst l (BitVec.ofInt sz.bits (v.toInt + k)) s t ∧
      t.flags = addFlags v (BitVec.ofInt sz.bits k) false :=
  modifyOp_wroteOperand h (by rw [addWith_false, BitVec.ofInt_add, BitVec.ofInt_toInt]) rfl

/-- Settles O28: `aluRd_wroteReg` for the two-operand forms, `setReg_afterSource` for ADDS and SUBS, `addQuick_wroteOperand`
for ADD:Q. -/
theorem addSubResult : Obligations.AddSubResult := by
  refine ⟨fun sz src d b s s1 h => ?general, fun sz src d b s s1 h => ?word, fun sz dst v l s s1 h => ?quick⟩
  case general =>
    have hflags := fetchSource_flags h
    refine ⟨?addG, ?sub, ?addx, ?subx⟩
    case addG =>
      dsimp only [exec, execAddG]
      exact aluRd_wroteReg h (addWith_false _ _) rfl
    case sub =>
      dsimp only [exec, execSub]
      exact aluRd_wroteReg h (subWith_false _ _) rfl
    case addx =>
      dsimp only [exec, execAddx]
      exact aluRd_wroteReg h (by rw [hflags]) (by rw [hflags, stickyFlags_eq]; rfl)
    case subx =>
      dsimp only [exec, execSubx]
      exact aluRd_wroteReg h (by rw [hflags]) (by rw [hflags, stickyFlags_eq]; rfl)
  case word =>
    simp only [List.forall_mem_cons, List.not_mem_nil, false_implies, implies_true, and_true]
    dsimp only [exec, execAdds, execSubs]
    rw [withSource_ok h, withSource_ok h, ← fetchSource_reg h]
    exact ⟨⟨_, rfl, setReg_afterSource h _⟩, ⟨_, rfl, setReg_afterSource h _⟩⟩
  case quick =>
    simp only [List.forall_mem_cons, List.not_mem_nil, false_implies, implies_true, and_true]
    exact ⟨addQuick_wroteOperand 1 h, addQuick_wroteOperand 2 h, addQuick_wroteOperand (-1) h,
      addQuick_wroteOperand (-2) h⟩

/-! ### Comparison -/

theorem withSource_setFlags {sz : Size} {src : SrcEa} {d : Reg} {b : BitVec sz.bits} {s s1 : State}
    (g : BitVec sz.bits → BitVec sz.bits → Flags) (h : fetchSource sz (some d) src s = .ok (b, s1)) :
    ∃ t, withSource sz src (some d) s (fun b s1 => .ok (s1.setFlags (g (s1.regOp sz d) b))) = .next t ∧
      t.flags = g (s.regOp sz d) b ∧ t.pc = s.pc ∧ srcMoved sz src s t ∧ framed (srcAuto src) [] s t := by
  rw [withSource_ok h, fetchSource_regOp h]
  exact ⟨_, rfl, rfl, (fetchSource_read h).write (framed_setFlags s1 _) (by simp) rfl⟩

/-- Settles O29: each form is a skeleton that only sets flags. -/
theorem compareResult : Obligations.CompareResult := by
  refine ⟨fun sz src d b s s1 h => ?cmpG, fun v m a l s s1 h => ?imm8, fun v m a l s s1 h => ?imm16,
    fun v w d s => ⟨⟨_, rfl, rfl, rfl, framed_setFlags s _⟩, ⟨_, rfl, rfl, rfl, framed_setFlags s _⟩⟩⟩
  case cmpG =>
    dsimp only [exec, execCmpG]
    exact withSource_setFlags (fun a b => subFlags a b false) h
  case imm8 =>
    dsimp only [exec, execCmpGImm8]
    exact testOp_testedOperand _ h
  case imm16 =>
    dsimp only [exec, execCmpGImm16]
    exact testOp_testedOperand _ h

/-! ### Decimal addition and subtraction -/

theorem isDecimal_iff (b : Byte) : isDecimal b = true ↔ b.toNat / 16 ≤ 9 ∧ b.toNat % 16 ≤ 9 := decide_eq_true_iff

theorem ofDecimal_lt {b : Byte} (h : isDecimal b = true) : ofDecimal b < 100 := by
  rw [isDecimal_iff] at h
  unfold ofDecimal
  omega

theorem toNat_toDecimal {u : Nat} (h : u < 100) : (toDecimal u).toNat = 16 * (u / 10) + u % 10 := by
  rw [toDecimal, BitVec.toNat_ofNat]
  omega

theorem isDecimal_toDecimal {u : Nat} (h : u < 100) : isDecimal (toDecimal u) = true := by
  rw [isDecimal_iff, toNat_toDecimal h]
  omega

theorem ofDecimal_toDecimal {u : Nat} (h : u < 100) : ofDecimal (toDecimal u) = u := by
  rw [ofDecimal, toNat_toDecimal h]
  omega

/-- The end of DADD and DSUB in the state: the two digits in the low byte of Rd, C, and Z under `Z_STICKY`. -/
theorem putDecimal_result (d : Reg) {u : Nat} (h : u < 100) (c : Bool) (s : State) :
    let t := putDecimal d u c s
    ofDecimal (t.regOp .byte d) = u ∧ t.flags.c = c ∧
      isDecimal (t.regOp .byte d) = true ∧ t.flags.n = s.flags.n ∧ t.flags.v = s.flags.v ∧
        t.flags.z = (s.flags.z && decide (t.regOp .byte d = 0)) ∧ upperKept .byte d s t ∧ t.pc = s.pc ∧
        framed [d] [] s t := by
  intro t
  have hlow : t.regOp .byte d = toDecimal u := s.regOp_setRegOp .byte d (toDecimal u)
  have hupper : upperKept .byte d s t := fun _ => by simp [t, putDecimal, State.setRegOp]
  rw [hlow]
  exact ⟨ofDecimal_toDecimal h, rfl, isDecimal_toDecimal h, rfl, rfl, rfl, hupper, rfl,
    (framed_setRegOp s .byte d _).setFlags_after _⟩

/-- Of a number below 200, the two digits and C together are the number. -/
theorem digits_add_carry {t : Nat} (h : t < 200) : t % 100 + 100 * (decide (100 ≤ t)).toNat = t := by
  by_cases hc : 100 ≤ t
  · rw [decide_eq_true hc, Bool.toNat_true]
    omega
  · rw [decide_eq_false hc, Bool.toNat_false]
    omega

/-- The two digits of a difference, with 100 borrowed where it is negative. -/
theorem digits_sub_borrow {a need : Nat} (ha : a < 100) (hneed : need ≤ 100) :
    (a + 100 - need) % 100 + need = a + 100 * (decide (a < need)).toNat := by
  by_cases hc : a < need
  · rw [decide_eq_true hc, Bool.toNat_true]
    omega
  · rw [decide_eq_false hc, Bool.toNat_false]
    omega

theorem exec_dadd_decimal {r d : Reg} {s : State} (ha : isDecimal (s.regOp .byte d) = true)
    (hb : isDecimal (s.regOp .byte r) = true) :
    let t := ofDecimal (s.regOp .byte d) + ofDecimal (s.regOp .byte r) + s.flags.c.toNat
    exec (.dadd r d) s = .next (putDecimal d (t % 100) (decide (100 ≤ t)) s) :=
  if_pos (Bool.and_eq_true_iff.2 ⟨ha, hb⟩)

theorem exec_dsub_decimal {r d : Reg} {s : State} (ha : isDecimal (s.regOp .byte d) = true)
    (hb : isDecimal (s.regOp .byte r) = true) :
    let a := ofDecimal (s.regOp .byte d)
    let need := ofDecimal (s.regOp .byte r) + s.flags.c.toNat
    exec (.dsub r d) s = .next (putDecimal d ((a + 100 - need) % 100) (decide (a < need)) s) :=
  if_pos (Bool.and_eq_true_iff.2 ⟨ha, hb⟩)

/-- Settles O30: `putDecimal_result` says what is kept, the arithmetic of the digits is `digits_add_carry` and
`digits_sub_borrow`. -/
theorem decimalResult : Obligations.DecimalResult := by
  intro r d s a b
  have hc := Bool.toNat_le s.flags.c
  have hmod (x : Nat) : x % 100 < 100 := Nat.mod_lt x (by decide)
  refine ⟨fun ha hb => ⟨⟨_, exec_dadd_decimal ha hb, ?dadd⟩, ⟨_, exec_dsub_decimal ha hb, ?dsub⟩⟩, fun h => ?refused⟩
  case dadd =>
    have ha' := ofDecimal_lt ha
    have hb' := ofDecimal_lt hb
    obtain ⟨hdigits, hcarry, hrest⟩ := putDecimal_result d (hmod (ofDecimal a + ofDecimal b + s.flags.c.toNat))
      (decide (100 ≤ ofDecimal a + ofDecimal b + s.flags.c.toNat)) s
    refine ⟨?_, hrest⟩
    rw [hdigits, hcarry]
    exact digits_add_carry (by omega)
  case dsub =>
    have ha' := ofDecimal_lt ha
    have hb' := ofDecimal_lt hb
    obtain ⟨hdigits, hborrow, hrest⟩ := putDecimal_result d (hmod (ofDecimal a + 100 - (ofDecimal b + s.flags.c.toNat)))
      (decide (ofDecimal a < ofDecimal b + s.flags.c.toNat)) s
    refine ⟨?_, hrest⟩
    rw [hdigits, hborrow, add_assoc]
    exact digits_sub_borrow ha' (by omega)
  case refused =>
    have hnot : ¬(isDecimal a && isDecimal b) = true := fun hboth => h (Bool.and_eq_true_iff.1 hboth)
    exact ⟨if_neg hnot, if_neg hnot⟩

/-! ### Multiplication and division -/

theorem toNat_append_eq_add {n m : Nat} (h : BitVec n) (l : BitVec m) : (h ++ l).toNat = h.toNat * 2 ^ m + l.toNat := by
  rw [BitVec.toNat_append, ← Nat.shiftLeft_add_eq_or_of_lt l.isLt, Nat.shiftLeft_eq]

/-- Two registers, the first one high. -/
theorem toNat_pair (h l : Word) : (h ++ l : BitVec 32).toNat = h.toNat * 65536 + l.toNat := toNat_append_eq_add h l

/-- What MULXU and DIVXU leave alone: after the source is read only the registers `rs` and the flags are written. -/
theorem SourceRead.framed_after {sz : Size} {src : SrcEa} {s s1 t : State} {rs : List Reg} (h : SourceRead sz src s s1)
    (ht : Machine.framed rs [] s1 t) (hpc : t.pc = s1.pc) :
    t.pc = s.pc ∧ sameRegs rs s1 t ∧ sameControl s t ∧ sameMemory [] s t :=
  ⟨hpc.trans h.pc, ht.1, h.framed.2.1.trans ht.2.1, h.framed.2.2.trans ht.2.2⟩

/-- Writing a register pair and the flags. -/
theorem framed_setPair_setFlags (s : State) (d : Reg) (v w : Word) (f : Flags) :
    framed [d, d + 1] [] s (((s.setReg d v).setReg (d + 1) w).setFlags f) :=
  ((framed_setReg_setReg s (d + 1) d v w).mono (by simp) (by simp)).setFlags_after f

theorem toNat_mul_widened {n m : Nat} (a b : BitVec n) (h : n + n ≤ m) :
    (a.setWidth m * b.setWidth m).toNat = a.toNat * b.toNat := by
  have hprod : a.toNat * b.toNat < 2 ^ m := calc
    a.toNat * b.toNat < 2 ^ n * 2 ^ n := Nat.mul_lt_mul'' a.isLt b.isLt
    _ = 2 ^ (n + n) := (Nat.pow_add ..).symm
    _ ≤ 2 ^ m := Nat.pow_le_pow_right (by decide) h
  have hwide (x : BitVec n) : (x.setWidth m).toNat = x.toNat := BitVec.toNat_setWidth_of_le (by omega)
  rw [BitVec.toNat_mul_of_lt (by rwa [hwide, hwide]), hwide, hwide]

theorem pair_of_words (p : BitVec 32) : p.extractLsb' 16 16 ++ p.extractLsb' 0 16 = p := by
  apply BitVec.eq_of_getLsbD_eq
  intro i hi
  rw [BitVec.getLsbD_append]
  by_cases h : i < 16
  · simp [h]
  · simp [h, show i - 16 < 16 by omega, show 16 + (i - 16) = i by omega]

theorem resultFlags_eq {n : Nat} (r : BitVec n) (v c : Bool) :
    resultFlags r v c = { n := r.msb, z := decide (r = 0), v := v, c := c } := rfl

/-- N and Z of a 32-bit result, by its words. -/
theorem resultFlags_pair (h l : Word) (v c : Bool) :
    resultFlags (h ++ l : BitVec 32) v c = { n := h.msb, z := decide (h = 0 ∧ l = 0), v := v, c := c } := by
  have hzero : (h ++ l : BitVec 32) = 0 ↔ h = 0 ∧ l = 0 := by
    rw [← BitVec.toNat_inj, toNat_pair, ← BitVec.toNat_inj, ← BitVec.toNat_inj]
    change _ = 0 ↔ _ = 0 ∧ _ = 0
    omega
  have hmsb : (h ++ l : BitVec 32).msb = h.msb := BitVec.msb_append
  rw [resultFlags_eq, decide_eq_decide.2 hzero, hmsb]

/-- MULXU.B in the state after its source is read. -/
theorem mulxu_byte_result (d : Reg) (b : Byte) (s : State) :
    ∃ t, mulxu .byte d b s = .ok t ∧ (t.reg d).toNat = (s.regOp .byte d).toNat * b.toNat ∧
      t.flags = { n := (t.reg d).msb, z := decide (t.reg d = 0), v := false, c := false } ∧ t.pc = s.pc ∧
      framed [d] [] s t := by
  have hreg (p : Word) (f : Flags) : ((s.setReg d p).setFlags f).reg d = p := by simp
  refine ⟨_, rfl, ?_, ?_, rfl, (framed_setReg s d _).setFlags_after _⟩
  · rw [hreg]
    exact toNat_mul_widened _ b (by decide)
  · rw [hreg]
    rfl

theorem setPair_reg (s : State) (d : Reg) (h l : Word) (f : Flags) :
    (((s.setReg d h).setReg (d + 1) l).setFlags f).reg d = h ∧
      (((s.setReg d h).setReg (d + 1) l).setFlags f).reg (d + 1) = l := by
  simp

/-- MULXU.W with an even Rd. -/
theorem mulxu_word_result {d : Reg} (hd : d.val % 2 = 0) (b : Word) (s : State) :
    ∃ t, mulxu .word d b s = .ok t ∧
      (t.reg d).toNat * 65536 + (t.reg (d + 1)).toNat = (s.reg (d + 1)).toNat * b.toNat ∧
      t.flags = { n := (t.reg d).msb, z := decide (t.reg d = 0 ∧ t.reg (d + 1) = 0), v := false, c := false } ∧
      t.pc = s.pc ∧ framed [d, d + 1] [] s t := by
  let p : BitVec 32 := (s.reg (d + 1)).setWidth 32 * b.setWidth 32
  obtain ⟨hhigh, hlow⟩ := setPair_reg s d (p.extractLsb' 16 16) (p.extractLsb' 0 16) (resultFlags p false false)
  refine ⟨_, if_neg (by omega), ?_, ?_, rfl, framed_setPair_setFlags s d _ _ _⟩
  · rw [hhigh, hlow, ← toNat_pair, pair_of_words]
    exact toNat_mul_widened _ b (by decide)
  · rw [hhigh, hlow, ← resultFlags_pair, pair_of_words]
    rfl

theorem withSource_next {sz : Size} {src : SrcEa} {other : Option Reg} {b : BitVec sz.bits} {s s1 t : State}
    {k : BitVec sz.bits → State → Except Stop State} (h : fetchSource sz other src s = .ok (b, s1)) (hk : k b s1 = .ok t) :
    withSource sz src other s k = .next t := by
  rw [withSource_ok h, hk]
  rfl

theorem withSource_refused {sz : Size} {src : SrcEa} {other : Option Reg} {b : BitVec sz.bits} {s s1 : State} {r : Refusal}
    {k : BitVec sz.bits → State → Except Stop State} (h : fetchSource sz other src s = .ok (b, s1)) (hk : k b s1 = refuse r) :
    withSource sz src other s k = .refused r := by
  rw [withSource_ok h, hk]
  rfl

/-- Settles O31: `mulxu_byte_result` and `mulxu_word_result` in the state after the source is read. -/
theorem multiplyResult : Obligations.MultiplyResult := by
  refine ⟨fun src d b s s1 h => ?_, fun src d b s s1 h => ⟨fun heven => ?_, fun hodd => ?_⟩⟩
  · obtain ⟨t, hmul, hprod, hflags, hpc, hframed⟩ := mulxu_byte_result d b s1
    exact ⟨t, withSource_next h hmul, fetchSource_regOp h ▸ hprod, hflags, (fetchSource_read h).framed_after hframed hpc⟩
  · obtain ⟨t, hmul, hprod, hflags, hpc, hframed⟩ := mulxu_word_result heven b s1
    exact ⟨t, withSource_next h hmul, hprod, hflags, (fetchSource_read h).framed_after hframed hpc⟩
  · exact withSource_refused h (if_pos hodd)

/-- Two bytes of a register, the first one high. -/
theorem toNat_bytes (h l : Byte) : (h ++ l : Word).toNat = h.toNat * 256 + l.toNat := toNat_append_eq_add h l

theorem toNat_ofNat_of_lt {n x : Nat} (h : x < 2 ^ n) : (BitVec.ofNat n x).toNat = x :=
  (BitVec.toNat_ofNat ..).trans (Nat.mod_eq_of_lt h)

theorem toNat_ofNat_mod {n : Nat} (a : Nat) {b : BitVec n} (h : b ≠ 0) :
    (BitVec.ofNat n (a % b.toNat)).toNat = a % b.toNat ∧ a % b.toNat < b.toNat := by
  have hpos : 0 < b.toNat := Nat.pos_of_ne_zero fun hzero => h (BitVec.eq_of_toNat_eq hzero)
  have hlt := Nat.mod_lt a hpos
  exact ⟨toNat_ofNat_of_lt (hlt.trans b.isLt), hlt⟩

/-- DIVXU.B with a quotient that fits, in the state after its source is read. -/
theorem divxuByte_fits {d : Reg} {b : Byte} {s : State} (hb : b ≠ 0) (hfits : (s.reg d).toNat / b.toNat < 2 ^ 8) :
    ∃ t, divxuByte d b s = .ok t ∧
      (s.reg d).toNat = (t.reg d).toNat % 256 * b.toNat + (t.reg d).toNat / 256 ∧ (t.reg d).toNat / 256 < b.toNat ∧
      t.flags = { n := (t.reg d).getLsbD 7, z := decide ((t.reg d).toNat % 256 = 0), v := false, c := false } ∧
      t.pc = s.pc ∧ framed [d] [] s t := by
  let q : Byte := BitVec.ofNat 8 ((s.reg d).toNat / b.toNat)
  let m : Byte := BitVec.ofNat 8 ((s.reg d).toNat % b.toNat)
  have hq : q.toNat = (s.reg d).toNat / b.toNat := toNat_ofNat_of_lt hfits
  obtain ⟨hm, hlt⟩ : m.toNat = (s.reg d).toNat % b.toNat ∧ _ := toNat_ofNat_mod _ hb
  have hexec : divxuByte d b s = .ok ((s.setReg d (m ++ q)).setFlags (resultFlags q false false)) :=
    (if_neg hb).trans (if_neg (by omega))
  have hreg : ((s.setReg d (m ++ q)).setFlags (resultFlags q false false)).reg d = m ++ q := by simp
  have hquot : (m ++ q : Word).toNat % 256 = q.toNat := by rw [toNat_bytes]; omega
  have hrem : (m ++ q : Word).toNat / 256 = m.toNat := by rw [toNat_bytes]; omega
  refine ⟨_, hexec, ?_, ?_, ?_, rfl, (framed_setReg s d _).setFlags_after _⟩
  · rw [hreg, hquot, hrem, hq, hm, Nat.div_add_mod']
  · rw [hreg, hrem, hm]
    exact hlt
  · have hneg : (m ++ q : Word).getLsbD 7 = q.msb := by
      rw [BitVec.getLsbD_append]
      rfl
    rw [hreg, hquot, hneg, State.setFlags_flags, resultFlags_eq]
    simp [← BitVec.toNat_inj]

/-- DIVXU.W with an even Rd and a quotient that fits. -/
theorem divxuWord_fits {d : Reg} {b : Word} {s : State} (hd : d.val % 2 = 0) (hb : b ≠ 0)
    (hfits : ((s.reg d).toNat * 65536 + (s.reg (d + 1)).toNat) / b.toNat < 2 ^ 16) :
    ∃ t, divxuWord d b s = .ok t ∧
      (s.reg d).toNat * 65536 + (s.reg (d + 1)).toNat = (t.reg (d + 1)).toNat * b.toNat + (t.reg d).toNat ∧
      (t.reg d).toNat < b.toNat ∧
      t.flags = { n := (t.reg (d + 1)).msb, z := decide (t.reg (d + 1) = 0), v := false, c := false } ∧
      t.pc = s.pc ∧ framed [d, d + 1] [] s t := by
  rw [← toNat_pair] at hfits ⊢
  let a : BitVec 32 := s.reg d ++ s.reg (d + 1)
  let q : Word := BitVec.ofNat 16 (a.toNat / b.toNat)
  let m : Word := BitVec.ofNat 16 (a.toNat % b.toNat)
  have hq : q.toNat = a.toNat / b.toNat := toNat_ofNat_of_lt hfits
  obtain ⟨hm, hlt⟩ : m.toNat = a.toNat % b.toNat ∧ _ := toNat_ofNat_mod _ hb
  obtain ⟨hhigh, hlow⟩ := setPair_reg s d m q (resultFlags q false false)
  have hexec : divxuWord d b s = .ok (((s.setReg d m).setReg (d + 1) q).setFlags (resultFlags q false false)) :=
    (if_neg (by omega)).trans ((if_neg hb).trans (if_neg (by omega)))
  refine ⟨_, hexec, ?_, ?_, ?_, rfl, framed_setPair_setFlags s d _ _ _⟩
  · rw [hhigh, hlow, hq, hm, Nat.div_add_mod']
  · rw [hhigh, hm]
    exact hlt
  · rw [hlow]
    rfl

/-- Settles O32: `divxuByte_fits` and `divxuWord_fits` in the state after the source is read. -/
theorem divideResult : Obligations.DivideResult := by
  refine ⟨fun src d b s s1 h hb hfits => ?_, fun src d b s s1 h => ⟨fun heven hb hfits => ?_, fun hodd => ?_⟩⟩
  · rw [← fetchSource_reg h] at hfits ⊢
    obtain ⟨t, hdiv, hdividend, hrem, hflags, hpc, hframed⟩ := divxuByte_fits hb hfits
    exact ⟨t, withSource_next h hdiv, hdividend, hrem, hflags, (fetchSource_read h).framed_after hframed hpc⟩
  · rw [← fetchSource_reg h] at hfits ⊢
    obtain ⟨t, hdiv, hdividend, hrem, hflags, hpc, hframed⟩ := divxuWord_fits heven hb hfits
    exact ⟨t, withSource_next h hdiv, hdividend, hrem, hflags, (fetchSource_read h).framed_after hframed hpc⟩
  · exact withSource_refused h (if_pos hodd)

/-- DIVXU.B with a quotient that does not fit (U5). -/
theorem divxuByte_overflow {d : Reg} {b : Byte} {s : State} (hb : b ≠ 0) (hover : 2 ^ 8 ≤ (s.reg d).toNat / b.toNat) :
    ∃ t, divxuByte d b s = .ok t ∧ t.flags.v = true ∧ t.flags.c = false ∧ t.pc = s.pc ∧ framed [d] [] s t :=
  ⟨_, (if_neg hb).trans (if_pos hover), rfl, rfl, rfl, (framed_setReg s d _).setFlags_after _⟩

/-- DIVXU.W with an even Rd and a quotient that does not fit (U5). -/
theorem divxuWord_overflow {d : Reg} {b : Word} {s : State} (hd : d.val % 2 = 0) (hb : b ≠ 0)
    (hover : 2 ^ 16 ≤ ((s.reg d).toNat * 65536 + (s.reg (d + 1)).toNat) / b.toNat) :
    ∃ t, divxuWord d b s = .ok t ∧ t.flags.v = true ∧ t.flags.c = false ∧ t.pc = s.pc ∧ framed [d, d + 1] [] s t := by
  rw [← toNat_pair] at hover
  exact ⟨_, (if_neg (by omega)).trans ((if_neg hb).trans (if_pos hover)), rfl, rfl, rfl, framed_setPair_setFlags s d _ _ _⟩

/-- A divisor of 0 raises ZeroDivide (60_exceptions.md R303), where the pair exists. -/
theorem divxu_zero {sz : Size} {d : Reg} (hd : sz = .word → d.val % 2 = 0) (s : State) : divxu sz d 0 s = zeroDivide s := by
  cases sz with
  | byte => rfl
  | word =>
    have heven := hd rfl
    exact if_neg (by omega)

/-- Settles O33: the free values of an overflow lie inside the frame; a zero divisor is an entry from the state after the
source is read. -/
theorem divideOverflowAndZero : Obligations.DivideOverflowAndZero := by
  refine ⟨fun src d b s s1 h hb hover => ?_, fun src d b s s1 h heven hb hover => ?_,
    fun sz src d s s1 cp pc h hd heven hvector => ?_⟩
  · rw [← fetchSource_reg h] at hover
    obtain ⟨t, hdiv, hv, hc, hpc, hframed⟩ := divxuByte_overflow hb hover
    exact ⟨t, withSource_next h hdiv, hv, hc, (fetchSource_read h).framed_after hframed hpc⟩
  · rw [← fetchSource_reg h] at hover
    obtain ⟨t, hdiv, hv, hc, hpc, hframed⟩ := divxuWord_overflow heven hb hover
    exact ⟨t, withSource_next h hdiv, hv, hc, (fetchSource_read h).framed_after hframed hpc⟩
  · have hdiv : divxu sz d 0 s1 = .ok (s1.handlerEntered s.pc cp pc) := by
      rw [divxu_zero hd, zeroDivide, (fetchSource_read h).pc, takeException_even heven hvector]
      rfl
    exact ⟨_, withSource_next h hdiv, entered_handlerEntered s.pc cp pc heven⟩

/-! ### Extension -/

theorem regOp_byte_eq (s : State) (d : Reg) : s.regOp .byte d = (s.reg d).extractLsb' 0 8 :=
  BitVec.setWidth_eq_extractLsb' (by decide)

theorem signExtend_byte_msb (b : Byte) : (b.signExtend 16).msb = b.msb := BitVec.msb_signExtend

theorem signExtend_byte_eq_zero_iff (b : Byte) : b.signExtend 16 = 0 ↔ b = 0 := by
  rw [← BitVec.toInt_inj, ← BitVec.toInt_inj, BitVec.toInt_signExtend_of_le (by decide)]
  rfl

theorem exec_exts_result (d : Reg) (s : State) :
    ∃ t, exec (.exts d) s = .next t ∧ t.reg d = ((s.reg d).extractLsb' 0 8).signExtend 16 ∧
      t.flags = { n := (t.reg d).getLsbD 15, z := decide (t.reg d = 0), v := false, c := false } ∧
      t.flags.n = (s.reg d).getLsbD 7 ∧ t.flags.z = decide ((s.reg d).extractLsb' 0 8 = 0) ∧
      t.pc = s.pc ∧ framed [d] [] s t := by
  have hexec : exec (.exts d) s = .next ((s.setReg d ((s.regOp .byte d).signExtend 16)).setFlags
      (resultFlags ((s.regOp .byte d).signExtend 16) false false)) := rfl
  rw [regOp_byte_eq] at hexec
  refine ⟨_, hexec, by simp, ?_, ?_, ?_, rfl, (framed_setReg s d _).setFlags_after _⟩
  · rw [State.setFlags_reg, State.reg_setReg, if_pos rfl]
    exact resultFlags_eq _ _ _
  · exact (signExtend_byte_msb _).trans (by simp [BitVec.msb_eq_getLsbD_last])
  · exact decide_eq_decide.2 (signExtend_byte_eq_zero_iff _)

theorem exec_extu_result (d : Reg) (s : State) :
    ∃ t, exec (.extu d) s = .next t ∧ t.reg d = ((s.reg d).extractLsb' 0 8).setWidth 16 ∧
      t.flags = { n := false, z := decide (t.reg d = 0), v := false, c := false } ∧ (t.reg d).getLsbD 15 = false ∧
      t.pc = s.pc ∧ framed [d] [] s t := by
  have hexec : exec (.extu d) s = .next ((s.setReg d ((s.regOp .byte d).setWidth 16)).setFlags
      { n := false, z := (s.regOp .byte d).setWidth 16 == (0 : Word), v := false, c := false }) := rfl
  rw [regOp_byte_eq] at hexec
  have hreg (w : Word) (f : Flags) : ((s.setReg d w).setFlags f).reg d = w := by simp
  refine ⟨_, hexec, hreg _ _, ?_, ?_, rfl, (framed_setReg s d _).setFlags_after _⟩
  · rw [hreg]
    rfl
  · rw [hreg, BitVec.getLsbD_setWidth, BitVec.getLsbD_of_ge _ 15 (by decide), Bool.and_false]

/-- Settles O34: the examples are the general result at H'1280. -/
theorem extendResult : Obligations.ExtendResult := by
  refine ⟨fun d s => ⟨rfl, rfl, exec_exts_result d s, exec_extu_result d s⟩, rfl, rfl, fun s hs => ⟨?exts, ?extu⟩⟩
  case exts =>
    obtain ⟨t, hexec, hreg, hflags, _⟩ := exec_exts_result 0 s
    rw [hs] at hreg
    rw [hreg] at hflags
    exact ⟨t, hexec, hreg, congrArg Flags.n hflags, congrArg Flags.z hflags⟩
  case extu =>
    obtain ⟨t, hexec, hreg, hflags, _⟩ := exec_extu_result 0 s
    rw [hs] at hreg
    rw [hreg] at hflags
    exact ⟨t, hexec, hreg, congrArg Flags.n hflags, congrArg Flags.z hflags⟩

/-! ### Operations on one operand -/

theorem neg_beq_zero {n : Nat} (v : BitVec n) : (-v == 0) = decide (v = 0) :=
  decide_eq_decide.2 BitVec.neg_eq_zero_iff

/-- An operand that is written back is read without a change of the flags. -/
theorem fetchDest_flags {sz : Size} {other : Option Reg} {dst : DstEa} {v : BitVec sz.bits} {l : Loc} {s s1 : State}
    (h : fetchDest sz other dst s = .ok (v, l, s1)) : s1.flags = s.flags :=
  congrArg Status.flags (fetchDest_located h).sr

/-- NEG: one free value is drawn, which V is for the most negative operand alone (U12). -/
theorem exec_neg_result {sz : Size} {dst : DstEa} {v : BitVec sz.bits} {l : Loc} {s s1 : State}
    (h : fetchDest sz none dst s = .ok (v, l, s1)) :
    ∃ t, exec (.neg sz dst) s = .next t ∧ wroteOperand sz dst l (0 - v) s t ∧ t.flags.n = (0 - v).msb ∧
      t.flags.z = decide (v = 0) ∧ t.flags.c = decide (v ≠ 0) ∧ (v.toNat ≠ 2 ^ (sz.bits - 1) → t.flags.v = false) := by
  have haligned := fetchDest_aligned h
  have hexec : exec (.neg sz dst) s = .next (((s1.putOp sz l (-v)).setFlags
      (resultFlags (-v) (if v = BitVec.intMin sz.bits then Config.freeBit s.draws else false) (v != 0))).addDraws 1) := by
    simp only [exec, execNeg, h, bind, Except.bind, writeOp_aligned haligned, pure, Except.pure, complete]
  rw [show 0 - v = -v from BitVec.zero_sub v]
  refine ⟨_, hexec, wroteOperand_of (fetchDest_located h) haligned _ _ 1, rfl, ?_, ?_, fun hv => ?_⟩
  · exact neg_beq_zero v
  · exact (decide_not (p := v = 0)).symm
  · have hmin : v ≠ BitVec.intMin sz.bits := fun hmin => hv (by rw [hmin]; cases sz <;> rfl)
    exact if_neg hmin

/-- Settles O35: each is its skeleton at its value and flags; NEG, which draws a free value, by `exec_neg_result`. -/
theorem unaryResult : Obligations.UnaryResult := by
  refine ⟨fun sz dst v l s s1 h => ⟨?tst, exec_neg_result h, ?not⟩, fun sz dst l s s1 h haligned => ?clr,
    fun dst v l s s1 h => ?tas⟩
  case tst =>
    dsimp only [exec, execTst]
    exact testOp_testedOperand _ h
  case not =>
    dsimp only [exec, execNot]
    have hmsb : (~~~v).msb = !v.msb := by rw [BitVec.msb_not, decide_eq_true (bits_pos sz), Bool.true_and]
    exact modifyOp_wroteOperand h rfl (by rw [fetchDest_flags h, logicFlags_eq, hmsb])
  case clr =>
    dsimp only [exec, execClr]
    exact ⟨_, putDest_ok h (writeOp_aligned haligned _), wroteOperand_of (locateDst_located h) haligned _ _ 0, rfl⟩
  case tas =>
    dsimp only [exec, execTas]
    exact modifyOp_wroteOperand h rfl rfl

end Sys2Proof.Machine

end Arithmetic

/-! ## Shift and rotate

What the shifts leave in the state (42_shift.md). Each of the eight moves the operand by one place and fills the place left
free with some bit (0, the sign, the bit that left, or C), so all are `rotateThroughLeft` or `rotateThroughRight` of that bit. -/

section Shifts

namespace Sys2Proof.Machine

/-! ### The results as numbers -/

section Results

variable {n : Nat}

theorem toNat_or_of_disjoint {x y : BitVec n} (h : x &&& y = 0#n) : (x ||| y).toNat = x.toNat + y.toNat := by
  rw [← BitVec.add_eq_or_of_and_eq_zero x y h, BitVec.toNat_add_of_and_eq_zero h]

theorem getElem_bitNumber (c : Bool) {i : Nat} (hi : i < n) : (bitNumber n c)[i] = (decide (i = 0) && c) := by
  simp [bitNumber, BitVec.getLsbD_ofBool]

theorem toNat_bitNumber (hn : 0 < n) (c : Bool) : (bitNumber n c).toNat = c.toNat :=
  (BitVec.toNat_setWidth_of_le hn).trans (BitVec.toNat_ofBool c)

theorem getElem_bitNumber_top (c : Bool) {i : Nat} (hi : i < n) :
    (bitNumber n c <<< (n - 1))[i] = (decide (i = n - 1) && c) := by
  rw [BitVec.getElem_shiftLeft]
  by_cases h : i < n - 1
  · simp [h, h.ne]
  · simp [getElem_bitNumber, show i = n - 1 by omega]

theorem toNat_bitNumber_top (hn : 0 < n) (c : Bool) : (bitNumber n c <<< (n - 1)).toNat = 2 ^ (n - 1) * c.toNat := by
  have hhalf : 2 ^ (n - 1) < 2 ^ n := Nat.pow_lt_pow_right (by decide) (by omega)
  rw [BitVec.toNat_shiftLeft, toNat_bitNumber hn, Nat.shiftLeft_eq, mul_comm]
  cases c <;> simp [Nat.mod_eq_of_lt hhalf]

theorem getElem_rotateThroughLeft (v : BitVec n) (c : Bool) {i : Nat} (hi : i < n) :
    (rotateThroughLeft v c)[i] = if i = 0 then c else v[i - 1] := by
  by_cases h : i = 0 <;> simp [rotateThroughLeft, getElem_bitNumber, h]

theorem getElem_rotateThroughRight (v : BitVec n) (c : Bool) {i : Nat} (hi : i < n) :
    (rotateThroughRight v c)[i] = if h : 1 + i < n then v[1 + i] else c := by
  rw [rotateThroughRight, BitVec.getElem_or, getElem_bitNumber_top, BitVec.getElem_ushiftRight]
  by_cases h : 1 + i < n
  · simp [h, show i ≠ n - 1 by omega]
  · rw [dif_neg h, BitVec.getLsbD_of_ge v (1 + i) (by omega), decide_eq_true (by omega), Bool.false_or, Bool.true_and]

theorem toNat_rotateThroughLeft (hn : 0 < n) (v : BitVec n) (c : Bool) :
    (rotateThroughLeft v c).toNat = 2 * v.toNat % 2 ^ n + c.toNat := by
  have hdisjoint : (v <<< 1) &&& bitNumber n c = 0#n := by
    ext i hi
    by_cases h : i = 0 <;> simp [getElem_bitNumber, h]
  rw [rotateThroughLeft, toNat_or_of_disjoint hdisjoint, toNat_bitNumber hn, BitVec.toNat_shiftLeft, Nat.shiftLeft_eq,
    pow_one, mul_comm]

theorem toNat_rotateThroughRight (hn : 0 < n) (v : BitVec n) (c : Bool) :
    (rotateThroughRight v c).toNat = v.toNat / 2 + 2 ^ (n - 1) * c.toNat := by
  have hdisjoint : (v >>> 1) &&& (bitNumber n c <<< (n - 1)) = 0#n := by
    ext i hi
    rw [BitVec.getElem_and, getElem_bitNumber_top, BitVec.getElem_ushiftRight]
    by_cases h : i = n - 1
    · simp [BitVec.getLsbD_of_ge v (1 + i) (by omega)]
    · simp [h]
  rw [rotateThroughRight, toNat_or_of_disjoint hdisjoint, toNat_bitNumber_top hn, BitVec.toNat_ushiftRight,
    Nat.shiftRight_eq_div_pow, pow_one]

theorem shiftLeft_one_eq (v : BitVec n) : v <<< 1 = rotateThroughLeft v false := by
  simp [rotateThroughLeft, bitNumber]

theorem ushiftRight_one_eq (v : BitVec n) : v >>> 1 = rotateThroughRight v false := by
  simp [rotateThroughRight, bitNumber]

theorem sshiftRight_one_eq (v : BitVec n) : v.sshiftRight 1 = rotateThroughRight v v.msb := by
  ext i hi
  rw [getElem_rotateThroughRight, BitVec.getElem_sshiftRight]

theorem rotateLeft_one_eq (hn : 1 < n) (v : BitVec n) : v.rotateLeft 1 = rotateThroughLeft v (topBit v) := by
  ext i hi
  rw [getElem_rotateThroughLeft, BitVec.getElem_rotateLeft]
  by_cases h : i = 0
  · simp [h, Nat.mod_eq_of_lt hn, topBit, BitVec.msb_eq_getLsbD_last, ← BitVec.getLsbD_eq_getElem]
  · simp [h, Nat.mod_eq_of_lt hn]

theorem rotateRight_one_eq (hn : 1 < n) (v : BitVec n) : v.rotateRight 1 = rotateThroughRight v (lowBit v) := by
  ext i hi
  rw [getElem_rotateThroughRight, BitVec.getElem_rotateRight]
  by_cases h : 1 + i < n
  · simp [h, Nat.mod_eq_of_lt hn, show i < n - 1 by omega]
  · simp [h, Nat.mod_eq_of_lt hn, show ¬ i < n - 1 by omega, show i - (n - 1) = 0 by omega, lowBit,
      ← BitVec.getLsbD_eq_getElem]

theorem lowBit_eq (v : BitVec n) : lowBit v = decide (v.toNat % 2 = 1) := Nat.testBit_zero v.toNat

/-- V of SHAL: `v <<< 1` is the wrapped double, and doubling changes the sign exactly when the double wraps. -/
theorem signChanges_iff (hn : 0 < n) (v : BitVec n) : signChanges v = true ↔ ¬ SignedFits n (2 * v.toInt) := by
  have hdouble : (v <<< 1).toInt = (2 * v.toInt).bmod (2 ^ n) := by
    have hadd : v <<< 1 = v + v := BitVec.eq_of_toNat_eq (by simp [Nat.shiftLeft_eq, mul_two])
    rw [hadd, BitVec.toInt_add, two_mul]
  have hsign : signChanges v = true ↔ ¬ ((v <<< 1).toInt < 0 ↔ 2 * v.toInt < 0) := by
    have hmsb : signChanges v = (v.msb != (v <<< 1).msb) := by rw [BitVec.msb_shiftLeft]; rfl
    rw [hmsb, BitVec.msb_eq_toInt, BitVec.msb_eq_toInt, show 2 * v.toInt < 0 ↔ v.toInt < 0 by omega]
    simp [iff_comm]
  rw [hsign, hdouble, wrap_keeps_sign_iff hn BitVec.le_two_mul_toInt BitVec.two_mul_toInt_lt]

end Results

/-! ### The instructions -/

/-- R190 with the result given as the number `x`. -/
theorem shiftOp_result {sz : Size} {dst : DstEa} {v : BitVec sz.bits} {l : Loc} {s s1 : State} {x : Nat} {vf cf : Bool}
    {f : BitVec sz.bits → Bool → BitVec sz.bits} {vout cout : BitVec sz.bits → Bool}
    (h : fetchDest sz none dst s = .ok (v, l, s1)) (hx : (f v s.flags.c).toNat = x) (hv : vout v = vf) (hc : cout v = cf) :
    ∃ t, shiftOp sz dst s f vout cout = .next t ∧ wroteOperand sz dst l (BitVec.ofNat sz.bits x) s t ∧ x < 2 ^ sz.bits ∧
      t.flags = { n := decide (2 ^ (sz.bits - 1) ≤ x), z := decide (x = 0), v := vf, c := cf } := by
  subst hx hv hc
  have hzero : f v s.flags.c = 0 ↔ (f v s.flags.c).toNat = 0 := BitVec.toNat_inj.symm
  rw [BitVec.ofNat_toNat, BitVec.setWidth_eq, ← decide_eq_decide.2 hzero, ← BitVec.msb_eq_decide]
  obtain ⟨t, hexec, hwrote, hflags⟩ := modifyOp_wroteOperand (f := fun s1 v => f v s1.flags.c)
    (g := fun s1 v => resultFlags (f v s1.flags.c) (vout v) (cout v)) h rfl rfl
  rw [fetchDest_flags h] at hwrote hflags
  exact ⟨t, hexec, hwrote, BitVec.isLt _, hflags⟩

theorem one_lt_bits (sz : Size) : 1 < sz.bits := by
  cases sz <;> decide

/-- Settles O36: `toNat_rotateThroughLeft` and `toNat_rotateThroughRight` at the bit that each instruction moves in. -/
theorem shiftResult : Obligations.ShiftResult := by
  intro sz dst v l s s1 h n c top low
  have hpos := bits_pos sz
  have hone := one_lt_bits sz
  have hlow : lowBit v = low := lowBit_eq v
  have hleft := toNat_rotateThroughLeft hpos v
  have hright := toNat_rotateThroughRight hpos v
  have hoverflow : signChanges v = decide (¬ (-(2 : Int) ^ (n - 1) ≤ 2 * v.toInt ∧ 2 * v.toInt < (2 : Int) ^ (n - 1))) := by
    rw [Bool.eq_iff_iff, decide_eq_true_iff]
    exact signChanges_iff hpos v
  simp only [List.forall_mem_cons]
  dsimp only [exec, execShal, execShar, execShll, execShlr, execRotl, execRotr, execRotxl, execRotxr]
  refine ⟨?shal, ?shar, ?shll, ?shlr, ?rotl, ?rotr, ?rotxl, ?rotxr, List.forall_mem_nil _⟩
  case shal => exact shiftOp_result h (shiftLeft_one_eq v ▸ hleft false) hoverflow rfl
  case shar => exact shiftOp_result h (sshiftRight_one_eq v ▸ hright top) rfl hlow
  case shll => exact shiftOp_result h (shiftLeft_one_eq v ▸ hleft false) rfl rfl
  case shlr => exact shiftOp_result h (ushiftRight_one_eq v ▸ hright false) rfl hlow
  case rotl => exact shiftOp_result h (rotateLeft_one_eq hone v ▸ hleft top) rfl rfl
  case rotr => exact shiftOp_result h (rotateRight_one_eq hone v ▸ hlow ▸ hright _) rfl hlow
  case rotxl => exact shiftOp_result h (hleft s.flags.c) rfl rfl
  case rotxr => exact shiftOp_result h (hright s.flags.c) rfl hlow

end Sys2Proof.Machine

end Shifts

/-! ## Logic

What AND, OR and XOR leave in the state (43_logic.md R205 to R208). -/

section Logic

namespace Sys2Proof.Machine

/-- The skeleton of the logic instructions is that of the arithmetic ones, with the logic flags. -/
theorem logicRd_eq_aluRd (sz : Size) (src : SrcEa) (d : Reg) (s : State)
    (f : BitVec sz.bits → BitVec sz.bits → BitVec sz.bits) :
    logicRd sz src d s f = aluRd sz src d s (fun _ => f) (fun s1 a b => logicFlags (f a b) s1.flags) := rfl

/-- R205 for any operation `f`: Rd gets `f` of Rd and the source. -/
theorem logicRd_wroteReg {sz : Size} {src : SrcEa} {d : Reg} {b r : BitVec sz.bits} {s s1 : State}
    {f : BitVec sz.bits → BitVec sz.bits → BitVec sz.bits} (h : fetchSource sz (some d) src s = .ok (b, s1))
    (hr : f (s.regOp sz d) b = r) :
    ∃ t, logicRd sz src d s f = .next t ∧
      wroteReg sz src d r { n := r.msb, z := decide (r = 0), v := false, c := s.flags.c } s t := by
  rw [logicRd_eq_aluRd]
  exact aluRd_wroteReg h hr (by rw [fetchSource_flags h, hr, logicFlags_eq])

/-- An operation `f` that acts on each bit as `op`. -/
theorem logicRd_bits {sz : Size} {src : SrcEa} {d : Reg} {b : BitVec sz.bits} {s s1 : State}
    {f : BitVec sz.bits → BitVec sz.bits → BitVec sz.bits} {op : Bool → Bool → Bool}
    (h : fetchSource sz (some d) src s = .ok (b, s1))
    (hop : ∀ x y k, (f x y).getLsbD k = op (x.getLsbD k) (y.getLsbD k)) :
    ∃ (t : State) (r : BitVec sz.bits), logicRd sz src d s f = .next t ∧
      (∀ k < sz.bits, r.getLsbD k = op ((s.regOp sz d).getLsbD k) (b.getLsbD k)) ∧
      wroteReg sz src d r { n := r.msb, z := decide (r = 0), v := false, c := s.flags.c } s t := by
  obtain ⟨t, hexec, hwrote⟩ := logicRd_wroteReg h rfl
  exact ⟨t, _, hexec, fun k _ => hop _ _ k, hwrote⟩

/-- Settles O37: `logicRd_bits` at the three operations. -/
theorem logicResult : Obligations.LogicResult := by
  intro sz src d b s s1 h a
  simp only [List.forall_mem_cons]
  dsimp only [exec, execAnd, execOr, execXor]
  refine ⟨?and, ?or, ?xor, List.forall_mem_nil _⟩
  case and => exact logicRd_bits h fun _ _ _ => BitVec.getLsbD_and
  case or => exact logicRd_bits h fun _ _ _ => BitVec.getLsbD_or
  case xor => exact logicRd_bits h fun _ _ _ => BitVec.getLsbD_xor

end Sys2Proof.Machine

end Logic

/-! ## Bit manipulation

What BSET, BCLR, BNOT and BTST leave in the state (44_bit.md R215 to R219). The four share one skeleton and differ in the
bit they write; the immediate and the register form differ in where the bit number is found. -/

section BitManipulation

namespace Sys2Proof.Machine

/-! ### The bits of the results -/

section Bits

variable {n j : Nat}

theorem getLsbD_oneBit (k : Nat) (hj : j < n) : (oneBit n k).getLsbD j = decide (j = k) := by
  rw [oneBit, ← BitVec.twoPow_eq, BitVec.getLsbD_twoPow]
  by_cases h : j = k
  · subst h
    simp [hj]
  · simp [h, Ne.symm h]

theorem getLsbD_or_oneBit (v : BitVec n) (k : Nat) (hj : j < n) :
    (v ||| oneBit n k).getLsbD j = if j = k then true else v.getLsbD j := by
  rw [BitVec.getLsbD_or, getLsbD_oneBit k hj]
  split <;> simp [*]

theorem getLsbD_and_not_oneBit (v : BitVec n) (k : Nat) (hj : j < n) :
    (v &&& ~~~oneBit n k).getLsbD j = if j = k then false else v.getLsbD j := by
  rw [BitVec.getLsbD_and, BitVec.getLsbD_not, getLsbD_oneBit k hj]
  split <;> simp [*]

theorem getLsbD_xor_oneBit (v : BitVec n) (k : Nat) (hj : j < n) :
    (v ^^^ oneBit n k).getLsbD j = if j = k then !v.getLsbD j else v.getLsbD j := by
  rw [BitVec.getLsbD_xor, getLsbD_oneBit k hj]
  split <;> simp [*]

end Bits

/-! ### The bit number -/

theorem bitOfReg_eq_mod (s : State) (r : Reg) : bitOfReg s r = (s.reg r).toNat % 16 := by
  rw [bitOfReg, BitVec.extractLsb'_toNat, Nat.shiftRight_zero]

/-- Rs is no base register of the operand, so its bit number is that of the state before. -/
theorem locateDst_bitOfReg {sz : Size} {r : Reg} {dst : DstEa} {l : Loc} {s s1 : State}
    (h : locateDst sz (some r) dst s = .ok (l, s1)) : bitOfReg s1 r = (s.reg r).toNat % 16 := by
  rw [bitOfReg_eq_mod, (locateDst_located h).framed.1 r (locateDst_ne h)]

/-! ### The skeleton -/

section Skeleton

variable {sz : Size} {other : Option Reg} {dst : DstEa} {v : BitVec sz.bits} {l : Loc} {s s1 s2 : State} {k : State → Nat}
  {w : Loc → Nat → BitVec sz.bits → State → Except Stop State}

/-- A bit number below the width of the operand: nothing is refused, and Z is the inverse of the bit read. -/
theorem bitOp_ok (h : fetchDest sz other dst s = .ok (v, l, s1)) (hk : k s1 < sz.bits)
    (hw : w l (k s1) v s1 = .ok s2) :
    bitOp sz dst other k s w = .next (s2.setFlags { s.flags with z := !v.getLsbD (k s1) }) := by
  obtain ⟨hlocate, hread⟩ := fetchDest_ok h
  have hbyte : ¬(sz = .byte ∧ 8 ≤ k s1) := by
    rintro ⟨rfl, hge⟩
    exact absurd hk (Nat.not_lt.2 hge)
  simp only [bitOp, hlocate, bind, Except.bind, if_neg hbyte, hread, hw, pure, Except.pure, complete, fetchDest_flags h]

/-- A bit number of 8 to 15 on a byte operand that could be located (U2). -/
theorem bitOp_byte_refused (h : locateDst .byte other dst s = .ok (l, s1)) (hk : 8 ≤ k s1)
    (w : Loc → Nat → BitVec Size.byte.bits → State → Except Stop State) :
    bitOp .byte dst other k s w = .refused .bitNumberOnByte := by
  simp only [bitOp, h, bind, Except.bind, hk, and_self, if_true]
  rfl

/-- An instruction that wrote the operand `v` at `l` back with bit `n` made `new` of what it was, and the others kept. -/
def bitWritten (sz : Size) (dst : DstEa) (l : Loc) (v : BitVec sz.bits) (s : State) (n : Nat) (new : Bool → Bool)
    (o : Outcome) : Prop :=
  ∃ (t : State) (w : BitVec sz.bits), o = .next t ∧
    (∀ j < sz.bits, w.getLsbD j = if j = n then new (v.getLsbD j) else v.getLsbD j) ∧
    wroteOperand sz dst l w s t ∧ t.flags = { s.flags with z := !v.getLsbD n }

/-- An instruction that looked at bit `n` of the operand `v` and wrote nothing. -/
def bitTested (sz : Size) (dst : DstEa) (v : BitVec sz.bits) (s : State) (n : Nat) (o : Outcome) : Prop :=
  ∃ t, o = .next t ∧ testedOperand sz dst { s.flags with z := !v.getLsbD n } s t

/-- A skeleton that writes `x`, whose bits are those of `v` but for the selected one. -/
theorem bitOp_bitWritten {new : Bool → Bool} (h : fetchDest sz other dst s = .ok (v, l, s1)) (hk : k s1 < sz.bits)
    (x : BitVec sz.bits) (hw : w l (k s1) v s1 = s1.writeOp sz l x)
    (hx : ∀ j < sz.bits, x.getLsbD j = if j = k s1 then new (v.getLsbD j) else v.getLsbD j) :
    bitWritten sz dst l v s (k s1) new (bitOp sz dst other k s w) := by
  have haligned := fetchDest_aligned h
  have hwrite := hw.trans (writeOp_aligned haligned x)
  exact ⟨_, x, bitOp_ok h hk hwrite, hx, wroteOperand_of (fetchDest_located h) haligned x _ 0, rfl⟩

/-- R216 to R219 for a bit number found anywhere. -/
theorem bitOp_results {n : Nat} (h : fetchDest sz other dst s = .ok (v, l, s1)) (hn : k s1 = n) (hlt : n < sz.bits) :
    bitWritten sz dst l v s n (fun _ => true) (bitOp sz dst other k s (setBit sz)) ∧
      bitWritten sz dst l v s n (fun _ => false) (bitOp sz dst other k s (clearBit sz)) ∧
      bitWritten sz dst l v s n (fun b => !b) (bitOp sz dst other k s (invertBit sz)) ∧
      bitTested sz dst v s n (bitOp sz dst other k s (keepBit sz)) := by
  subst hn
  refine ⟨?set, ?clear, ?invert, ?keep⟩
  case set => exact bitOp_bitWritten h hlt _ rfl fun _ => getLsbD_or_oneBit v _
  case clear => exact bitOp_bitWritten h hlt _ rfl fun _ => getLsbD_and_not_oneBit v _
  case invert => exact bitOp_bitWritten h hlt _ rfl fun _ => getLsbD_xor_oneBit v _
  case keep => exact ⟨_, bitOp_ok h hlt rfl, testedOperand_of (fetchDest_located h) _⟩

end Skeleton

/-- Settles O38: `bitOp_results` and `bitOp_byte_refused` at the bit number of each form. -/
theorem bitResult : Obligations.BitResult := by
  refine ⟨fun sz dst k r v l s s1 => ⟨fun h hlt => ?imm, fun h hlt => ?reg⟩, fun dst k r s =>
    ⟨fun ⟨l, s1, h⟩ hge => ?immRefused, fun ⟨l, s1, h⟩ hge => ?regRefused⟩⟩
  case imm => exact bitOp_results (k := fun _ => k.toNat) h rfl hlt
  case reg => exact bitOp_results (k := fun s1 => bitOfReg s1 r) h (locateDst_bitOfReg (fetchDest_ok h).1) hlt
  case immRefused =>
    have hrefused := bitOp_byte_refused (k := fun _ => k.toNat) h hge
    simp only [List.forall_mem_cons]
    exact ⟨hrefused _, hrefused _, hrefused _, hrefused _, List.forall_mem_nil _⟩
  case regRefused =>
    have hrefused := bitOp_byte_refused (k := fun s1 => bitOfReg s1 r) h (hge.trans_eq (locateDst_bitOfReg h).symm)
    simp only [List.forall_mem_cons]
    exact ⟨hrefused _, hrefused _, hrefused _, hrefused _, List.forall_mem_nil _⟩

end Sys2Proof.Machine

end BitManipulation

/-! ## Branches, jumps, calls and returns

What the instructions of 45_branch.md leave in the state. A branch on a condition is BRA or nothing (R226, R227); a call pushes
the address of the next instruction (R246, R247) and, to another page, CP below it (R248); a return pops what a call pushed
(R249 to R252). -/

section Branches

namespace Sys2Proof.Machine

/-! ### Branches on a condition -/

theorem branchTo_sext16 (s : State) (x : Byte) :
    branchTo s (sext16 x) = s.setPc (BitVec.ofInt 16 (s.pc.toInt + x.toInt)) := by
  rw [BitVec.ofInt_add, BitVec.ofInt_toInt]
  rfl

theorem branchTo_eq_ofInt (s : State) (w : Word) : branchTo s w = s.setPc (BitVec.ofInt 16 (s.pc.toInt + w.toInt)) := by
  rw [BitVec.ofInt_add, BitVec.ofInt_toInt, BitVec.ofInt_toInt]
  rfl

/-- R226 and R227 for a condition that holds exactly when `p` does. -/
theorem branch_eq_bra {c : Cond} {p : Prop} [Decidable p] {s : State} (h : condHolds s.flags c = true ↔ p) (x : Byte)
    (w : Word) :
    branch8 c x s = (if p then exec (.bra8 x) s else .next s) ∧
      branch16 c w s = (if p then exec (.bra16 w) s else .next s) := by
  simp only [branch8, branch16, h]
  split <;> exact ⟨rfl, rfl⟩

/-- Settles O39: the displacements are added as signed numbers, and BLS is `branch_eq_bra`. -/
theorem branchAndJumpTarget : Obligations.BranchAndJumpTarget := by
  refine ⟨fun x w s => ⟨congrArg _ (branchTo_sext16 s x), congrArg _ (branchTo_eq_ofInt s w)⟩, fun x w s => ?bls,
    fun n x w s => ⟨rfl, rfl, rfl, rfl⟩⟩
  case bls => exact branch_eq_bra (c := .bls) (by simp [condHolds]) x w

/-- Settles O40: the encodings by definition, the rest by `branch_eq_bra` at each condition. -/
theorem branchConditionsOnCarryAndZero : Obligations.BranchConditionsOnCarryAndZero := by
  intro x w s h l c z
  simp only [List.forall_mem_cons]
  refine ⟨⟨rfl, rfl, ?brn⟩, ⟨rfl, rfl, ?bhi⟩, ⟨rfl, rfl, ?bcc⟩, ⟨rfl, rfl, ?bcs⟩, ⟨rfl, rfl, ?bne⟩, ⟨rfl, rfl, ?beq⟩,
    List.forall_mem_nil _⟩
  case brn => exact branch_eq_bra (c := .brn) (by simp [condHolds]) x w
  case bhi => exact branch_eq_bra (c := .bhi) (by simp [condHolds, c, z]) x w
  case bcc => exact branch_eq_bra (c := .bcc) (by simp [condHolds, c]) x w
  case bcs => exact branch_eq_bra (c := .bcs) (by simp [condHolds, c]) x w
  case bne => exact branch_eq_bra (c := .bne) (by simp [condHolds, z]) x w
  case beq => exact branch_eq_bra (c := .beq) (by simp [condHolds, z]) x w

/-- Settles O41: `branch_eq_bra` at each condition on N, V and Z. -/
theorem branchConditionsOnSignAndOverflow : Obligations.BranchConditionsOnSignAndOverflow := by
  intro x w s h l n v z
  simp only [List.forall_mem_cons]
  refine ⟨⟨rfl, rfl, ?bvc⟩, ⟨rfl, rfl, ?bvs⟩, ⟨rfl, rfl, ?bpl⟩, ⟨rfl, rfl, ?bmi⟩, ⟨rfl, rfl, ?bge⟩, ⟨rfl, rfl, ?blt⟩,
    ⟨rfl, rfl, ?bgt⟩, ⟨rfl, rfl, ?ble⟩, List.forall_mem_nil _⟩
  case bvc => exact branch_eq_bra (c := .bvc) (by simp [condHolds, v]) x w
  case bvs => exact branch_eq_bra (c := .bvs) (by simp [condHolds, v]) x w
  case bpl => exact branch_eq_bra (c := .bpl) (by simp [condHolds, n]) x w
  case bmi => exact branch_eq_bra (c := .bmi) (by simp [condHolds, n]) x w
  case bge => exact branch_eq_bra (c := .bge) (by simp [condHolds, n, v]) x w
  case blt => exact branch_eq_bra (c := .blt) (by simp [condHolds, n, v]) x w
  case bgt => exact branch_eq_bra (c := .bgt) (by simp [condHolds, n, v, z]) x w
  case ble => exact branch_eq_bra (c := .ble) (by simp [condHolds, n, v, z]) x w

/-! ### The orders after a comparison -/

section Orders

variable {n : Nat} (a b : BitVec n)

/-- C of `a - b` is the borrow. -/
theorem compareFlags_c_iff : (subFlags a b false).c = true ↔ a.toNat < b.toNat := decide_eq_true_iff

theorem compareFlags_z_iff : (subFlags a b false).z = true ↔ a = b := by
  simp only [subFlags, subWith_false, beq_iff_eq, sub_eq_zero]

/-- N is the sign of `a - b` but for a wrap, and V says whether it was wrapped. -/
theorem compareFlags_n_eq_v_iff (hn : 0 < n) :
    (subFlags a b false).n = (subFlags a b false).v ↔ b.toInt ≤ a.toInt := by
  obtain ⟨ha, ha'⟩ := signedFits_toInt a
  obtain ⟨hb, hb'⟩ := signedFits_toInt b
  have hhalf := two_pow_eq_two_mul_half hn
  have hwrap := wrap_keeps_sign_iff hn (x := a.toInt - b.toInt) (by omega) (by omega)
  rw [Bool.eq_iff_iff, subFlags_n_iff, subFlags_v_iff hn, toInt_subWith, Bool.toNat_false, Nat.cast_zero, Int.sub_zero,
    ← hwrap]
  omega

end Orders

/-- After CMP:G the flags are those of the difference of Rd and the operand. -/
theorem exec_cmpG_flags {sz : Size} {src : SrcEa} {d : Reg} {b : BitVec sz.bits} {s s1 t : State}
    (h : fetchSource sz (some d) src s = .ok (b, s1)) (hexec : exec (.cmpG sz src d) s = .next t) :
    t.flags = subFlags (s.regOp sz d) b false := by
  obtain ⟨u, hu, hflags, _⟩ := withSource_setFlags (fun a b => subFlags a b false) h
  obtain rfl := Host.Outcome.next.inj (hu.symm.trans hexec)
  exact hflags

/-- Settles O42: each condition read on the flags of a difference is an order. -/
theorem compareThenBranchOrders : Obligations.CompareThenBranchOrders := by
  intro sz src d b s s1 t h hexec a x
  have hflags : t.flags = subFlags a b false := exec_cmpG_flags h hexec
  have hc : t.flags.c = true ↔ a.toNat < b.toNat := hflags ▸ compareFlags_c_iff a b
  have hz : t.flags.z = true ↔ a = b := hflags ▸ compareFlags_z_iff a b
  have hnv : t.flags.n = t.flags.v ↔ b.toInt ≤ a.toInt := hflags ▸ compareFlags_n_eq_v_iff a b (bits_pos sz)
  have hzNat := hz.trans BitVec.toNat_inj.symm
  have hzInt := hz.trans BitVec.toInt_inj.symm
  have hbranch {c : Cond} {p : Prop} [Decidable p] (h : condHolds t.flags c = true ↔ p) :
      branch8 c x t = if decide p then .next (t.setPc (t.pc + x.signExtend 16)) else .next t :=
    (branch_eq_bra (h.trans decide_eq_true_iff.symm) x 0).1
  simp only [List.forall_mem_cons]
  refine ⟨?bhi, ?bls, ?bcc, ?bcs, ?bge, ?blt, ?bgt, ?ble, List.forall_mem_nil _⟩
  case bhi => exact hbranch (c := .bhi) (by simp [condHolds, ← Bool.not_eq_true, hc, hzNat]; omega)
  case bls => exact hbranch (c := .bls) (by simp [condHolds, hc, hzNat]; omega)
  case bcc => exact hbranch (c := .bcc) (by simp [condHolds, ← Bool.not_eq_true, hc])
  case bcs => exact hbranch (c := .bcs) (by simp [condHolds, hc])
  case bge => exact hbranch (c := .bge) (by simp [condHolds, hnv])
  case blt => exact hbranch (c := .blt) (by simp [condHolds, hnv])
  case bgt => exact hbranch (c := .bgt) (by simp [condHolds, ← Bool.not_eq_true, hzInt, hnv]; omega)
  case ble => exact hbranch (c := .ble) (by simp [condHolds, hzInt, hnv]; omega)

/-! ### Counting loops -/

theorem eq_zero_of_sub_one (v : Word) : v - 1 = 0xFFFF ↔ v = 0 := by
  bv_omega

/-- R253 when the condition does not hold: Rn is decremented, and the branch is taken unless Rn was 0. -/
theorem countAndBranch_false (n : Reg) (x : Byte) (s : State) :
    countAndBranch false n x s =
      .next (if s.reg n = 0 then s.setReg n (s.reg n - 1) else branchTo (s.setReg n (s.reg n - 1)) (sext16 x)) := by
  simp only [countAndBranch, eq_zero_of_sub_one, Bool.false_eq_true, if_false]

/-- R253 for any condition. -/
theorem countAndBranch_result (cond : Bool) (n : Reg) (x : Byte) (s : State) :
    ∃ t, countAndBranch cond n x s = .next t ∧ t.flags = s.flags ∧ framed [n] [] s t ∧
      (cond = true → t.reg n = s.reg n ∧ t.pc = s.pc) ∧
      (cond = false → t.reg n = s.reg n - 1 ∧
        (s.reg n = 0 → t.pc = s.pc) ∧ (s.reg n ≠ 0 → t.pc = s.pc + x.signExtend 16)) := by
  cases cond with
  | true => exact ⟨s, rfl, rfl, framed_refl _ _ s, fun _ => ⟨rfl, rfl⟩, nofun⟩
  | false =>
    rw [countAndBranch_false]
    have hcounted := framed_setReg s n (s.reg n - 1)
    by_cases hzero : s.reg n = 0
    · rw [if_pos hzero]
      exact ⟨_, rfl, rfl, hcounted, nofun, fun _ => ⟨by simp, fun _ => rfl, fun h => absurd hzero h⟩⟩
    · rw [if_neg hzero]
      exact ⟨_, rfl, rfl, hcounted.trans ((framed_setPc _ _).mono (by simp) (by simp)), nofun,
        fun _ => ⟨by simp [branchTo], fun h => absurd h hzero, fun _ => rfl⟩⟩

/-- Settles O43: `countAndBranch_result` at the three conditions. -/
theorem loopOnCount : Obligations.LoopOnCount := by
  intro n x s
  rw [List.forall_mem_cons, List.forall_mem_cons, List.forall_mem_cons]
  exact ⟨countAndBranch_result false n x s, countAndBranch_result _ n x s, countAndBranch_result _ n x s,
    List.forall_mem_nil _⟩

/-! ### Calls -/

/-- R246 and R247 from an even SP. -/
theorem callTo_even {s : State} (heven : s.sp.getLsbD 0 = false) (target : Word) :
    callTo target s = .next ((s.pushRaw s.pc).setPc target) := by
  simp only [callTo, push16_even s s.pc heven, bind, Except.bind]
  rfl

theorem pushedWord_pushRaw {s : State} (heven : s.sp.getLsbD 0 = false) (w pc : Word) :
    pushedWord w pc s.cp s ((s.pushRaw w).setPc pc) := by
  obtain ⟨hregs, _, hmem⟩ := framed_pushRaw s w
  have hword : (s.pushRaw w).wordAt (phys s .stack (s.sp - 2)) = some w := by
    rw [s.pushRaw_wordAt w _ heven (isEven_of_offset s .stack _ (sub_two_even _ heven)), if_pos rfl]
  exact ⟨s.pushRaw_sp w, hword, rfl, rfl, rfl, hregs, hmem, rfl, rfl, rfl, rfl, rfl, rfl⟩

theorem callTo_pushedWord {s : State} (heven : s.sp.getLsbD 0 = false) (target : Word) :
    ∃ t, callTo target s = .next t ∧ pushedWord s.pc target s.cp s t :=
  ⟨_, callTo_even heven target, pushedWord_pushRaw heven s.pc target⟩

/-- Settles O44: each of the six forms is `callTo` its target. -/
theorem callResult : Obligations.CallResult := by
  intro n x w s heven
  have hcall := callTo_pushedWord heven
  simp only [List.forall_mem_cons]
  exact ⟨hcall _, hcall _, hcall _, hcall _, hcall _, hcall _, List.forall_mem_nil _⟩

/-! ### Returns -/

theorem add_two_two (a : Word) : a + 2 + 2 = a + 4 := by bv_omega
theorem add_four_two (a : Word) : a + 4 + 2 = a + 6 := by bv_omega

theorem setSp_setSp (s : State) (v w : Word) : (s.setSp v).setSp w = s.setSp w := by
  simp only [State.setSp, State.setReg, Vector.set_set]

/-- R249 and R251 from an even SP where the word is there. -/
theorem returnDrop_even {s : State} {pc : Word} (imm : Word) (heven : s.sp.getLsbD 0 = false)
    (hpc : s.wordAt (phys s .stack s.sp) = some pc) :
    returnDrop imm s = .ok ((s.setSp (s.sp + 2 + imm)).setPc pc) := by
  simp only [returnDrop, pop16_even none heven hpc, bind, Except.bind, pure, Except.pure, State.setPc_sp, State.sp_setSp]
  exact congrArg (fun u : State => (Except.ok (u.setPc pc) : Except Stop State)) (setSp_setSp s _ _)

theorem returnDrop_result {s : State} {pc : Word} (imm : Word) (heven : s.sp.getLsbD 0 = false)
    (hpc : s.wordAt (phys s .stack s.sp) = some pc) :
    ∃ t, complete s (returnDrop imm s) = .next t ∧ t.pc = pc ∧ t.sp = s.sp + 2 + imm ∧ t.flags = s.flags ∧
      framed [Config.spIndex] [] s t := by
  rw [returnDrop_even imm heven hpc]
  exact ⟨_, rfl, rfl, by simp, rfl, (framed_setReg s Config.spIndex _).trans ((framed_setPc _ _).mono (by simp) (by simp))⟩

/-- RTE from an even SP in minimum mode. -/
theorem returnFromException_min {s : State} {sr pc : Word} (heven : s.sp.getLsbD 0 = false) (hm : s.mode = .min)
    (hsr : s.wordAt (phys s .stack s.sp) = some sr) (hpc : s.wordAt (phys s .stack (s.sp + 2)) = some pc) :
    returnFromException s = .ok (((s.setSp (s.sp + 4)).setSr (Status.ofWord sr)).setPc pc) := by
  have hpop : ((s.setSp (s.sp + 2)).setSr (Status.ofWord sr)).pop16 = _ :=
    pop16_at (v := pc) (s.sp_setSp _) (add_two_even _ heven) (by simpa using hpc)
  simp only [returnFromException, pop16_even none heven hsr, bind, Except.bind, State.popPage, State.setSr_mode,
    State.setSp_mode, hm, hpop, add_two_two, pure, Except.pure]
  exact congrArg (fun u : State => Except.ok ((u.setSr (Status.ofWord sr)).setPc pc)) (setSp_setSp s _ _)

/-- RTE from an even SP in maximum mode: CP is popped in between. -/
theorem returnFromException_max {s : State} {sr hi pc : Word} (heven : s.sp.getLsbD 0 = false) (hm : s.mode = .max)
    (hsr : s.wordAt (phys s .stack s.sp) = some sr) (hhi : s.wordAt (phys s .stack (s.sp + 2)) = some hi)
    (hpc : s.wordAt (phys s .stack (s.sp + 4)) = some pc) :
    returnFromException s =
      .ok ((((s.setSp (s.sp + 6)).setSr (Status.ofWord sr)).setCp (hi.extractLsb' 0 8)).setPc pc) := by
  have heven2 := add_two_even _ heven
  have hpop2 : ((s.setSp (s.sp + 2)).setSr (Status.ofWord sr)).pop16 = _ :=
    pop16_at (v := hi) (s.sp_setSp _) heven2 (by simpa using hhi)
  have hpop4 : ((((s.setSp (s.sp + 2)).setSr (Status.ofWord sr)).setSp (s.sp + 4)).setCp (hi.extractLsb' 0 8)).pop16 = _ :=
    pop16_at (v := pc) (State.sp_setSp _ _) (add_two_two s.sp ▸ add_two_even _ heven2) (by simpa using hpc)
  simp only [returnFromException, pop16_even none heven hsr, bind, Except.bind, State.popPage, State.setSr_mode,
    State.setSp_mode, hm, hpop2, add_two_two, hpop4, add_four_two, pure, Except.pure]
  exact congrArg
    (fun u : State => Except.ok (((u.setSr (Status.ofWord sr)).setCp (hi.extractLsb' 0 8)).setPc pc))
    ((setSp_setSp (s.setSp (s.sp + 2)) _ _).trans (setSp_setSp s _ _))

/-- Settles O45: `returnDrop_result` at the three immediates, and RTE in each mode. -/
theorem returnResult : Obligations.ReturnResult := by
  refine ⟨fun x w pc s heven hpc => ?drop, fun sr hi pc s heven hsr => ⟨fun hm hpc => ?min, fun hm hhi hpc => ?max⟩⟩
  case drop =>
    simp only [List.forall_mem_cons]
    exact ⟨returnDrop_result 0 heven hpc, returnDrop_result _ heven hpc, returnDrop_result w heven hpc, List.forall_mem_nil _⟩
  case min => exact congrArg (complete s) (returnFromException_min heven hm hsr hpc)
  case max => exact congrArg (complete s) (returnFromException_max heven hm hsr hhi hpc)

/-! ### Calls and returns between pages -/

theorem inMaximumMode_min {s : State} (h : s.mode = .min) (k : Outcome) :
    inMaximumMode s k = .refused .pageInstructionInMinimumMode := by
  simp only [inMaximumMode, h]

theorem pageTarget_of_ne {n : Reg} (h : n ≠ 7) (s : State) (k : Byte → Word → Outcome) :
    pageTarget n s k = k ((s.reg n).extractLsb' 0 8) (s.reg (n + 1)) := if_neg h

/-- `t` is `s` after the return address `ret` and CP were pushed (R248). -/
structure PagePushed (ret : Word) (s t : State) : Prop where
  sp : t.sp = s.sp - 4
  retWord : t.wordAt (phys s .stack (s.sp - 2)) = some ret
  cpWord : ∃ hi : Byte, t.wordAt (phys s .stack (s.sp - 4)) = some (hi ++ s.cp)
  sr : t.sr = s.sr
  framed : framed [Config.spIndex] (stackBytes s 2) s t

theorem pagePushed_max {s : State} (hm : s.mode = .max) (ret : Word) :
    s.pagePushed ret = ((s.pushRaw ret).addDraws 1).pushRaw (s.pushRaw ret).cpWord := by
  simp only [State.pagePushed, hm]

theorem pagePushed_of_even {s : State} (heven : s.sp.getLsbD 0 = false) (hm : s.mode = .max) (ret : Word) :
    PagePushed ret s (s.pagePushed ret) := by
  have heven2 := sub_two_even _ heven
  have hpc := s.pushRaw_wordAt ret _ heven (isEven_of_offset s .stack _ heven2)
  have hword := ((s.pushRaw ret).addDraws 1).pushRaw_wordAt (s.pushRaw ret).cpWord
  simp only [State.addDraws_sp, State.pushRaw_sp, phys_addDraws, phys_pushRaw, sub_two_two, State.addDraws_wordAt] at hword
  have hfirst : Machine.framed [Config.spIndex] (stackBytes s 1) s ((s.pushRaw ret).addDraws 1) := framed_pushRaw s ret
  rw [pagePushed_max hm]
  refine ⟨?sp, ?retWord, ⟨Config.freeByte (s.pushRaw ret).draws, ?cpWord⟩, rfl, ?framed⟩
  case sp => rw [State.pushRaw_sp, State.addDraws_sp, State.pushRaw_sp, sub_two_two]
  case retWord =>
    rw [hword _ heven2 (isEven_of_offset s .stack _ heven2), if_neg (phys_ne (by bv_omega)), hpc, if_pos rfl]
  case cpWord =>
    rw [hword _ heven2 (isEven_of_offset s .stack _ (sub_two_two s.sp ▸ sub_two_even _ heven2)), if_pos rfl]
    rfl
  case framed =>
    exact (hfirst.mono (fun _ hr => hr) (stackBytes_mono s (by decide))).trans
      ((framed_pushRaw _ _).mono (fun _ hr => hr) (stackBytes_pushRaw s 1 ret))

/-- The byte of CP in the frame. -/
theorem PagePushed.cpByte {ret : Word} {s t : State} (h : PagePushed ret s t) (heven : s.sp.getLsbD 0 = false) :
    t.byteAt (phys s .stack (s.sp - 3)) = some s.cp := by
  obtain ⟨hi, hcp⟩ := h.cpWord
  have heven4 : (s.sp - 4).getLsbD 0 = false := sub_two_two s.sp ▸ sub_two_even _ (sub_two_even _ heven)
  rw [show s.sp - 3 = s.sp - 4 + 1 by bv_omega, ← phys_succ s .stack _ heven4]
  exact byteAt_succ hcp

/-- R248 from an even SP. -/
theorem pageCallTo_even {s : State} (heven : s.sp.getLsbD 0 = false) (hm : s.mode = .max) (p : Byte) (target : Word) :
    pageCallTo p target s = .next (((s.pagePushed s.pc).setCp p).setPc target) := by
  have hcp : (s.pushRaw s.pc).pushCp = .ok (s.pagePushed s.pc) := by
    rw [pagePushed_max hm]
    exact push16_even _ _ (by rw [State.addDraws_sp, State.pushRaw_sp]; exact sub_two_even _ heven)
  simp only [pageCallTo, push16_even s s.pc heven, hcp, bind, Except.bind]
  rfl

/-- PJSR that goes on: it was in maximum mode, and went to some target from the state with its frame pushed. -/
theorem exec_pjsr_next {p : Byte} {w : Word} {n : Reg} {i : Instr} {s t : State} (heven : s.sp.getLsbD 0 = false)
    (hi : i ∈ [Instr.pjsrAbs p w, .pjsrInd n]) (h : exec i s = .next t) :
    s.mode = .max ∧ ∃ page target, t = ((s.pagePushed s.pc).setCp page).setPc target := by
  have hcall {page : Byte} {target : Word} (hm : s.mode = .max) (h : pageCallTo page target s = .next t) :
      t = ((s.pagePushed s.pc).setCp page).setPc target :=
    Host.Outcome.next.inj (h.symm.trans (pageCallTo_even heven hm page target))
  rcases List.mem_pair.1 hi with rfl | rfl
  · obtain ⟨hm, h⟩ := inMaximumMode_next h
    exact ⟨hm, p, w, hcall hm h⟩
  · obtain ⟨hm, h⟩ := inMaximumMode_next h
    obtain ⟨_, h⟩ := pageTarget_next h
    exact ⟨hm, _, _, hcall hm h⟩

/-- R250 and R252 from an even SP where the words are there. -/
theorem pageReturn_even {s : State} {hi pc : Word} (imm : Word) (hm : s.mode = .max) (heven : s.sp.getLsbD 0 = false)
    (hhi : s.wordAt (phys s .stack s.sp) = some hi) (hpc : s.wordAt (phys s .stack (s.sp + 2)) = some pc) :
    inMaximumMode s (complete s (pageReturnDrop imm s)) =
      .next (((s.setSp (s.sp + 4 + imm)).setCp (hi.extractLsb' 0 8)).setPc pc) := by
  have hdrop := returnDrop_even (s := (s.setSp (s.sp + 2)).setCp (hi.extractLsb' 0 8)) (pc := pc) imm
    (by simpa using add_two_even _ heven) (by simpa using hpc)
  rw [State.setCp_sp, State.sp_setSp, add_two_two] at hdrop
  rw [inMaximumMode_of hm]
  simp only [pageReturnDrop, pop16_even none heven hhi, bind, Except.bind, hdrop, complete]
  exact congrArg (fun u : State => Host.Outcome.next ((u.setCp (hi.extractLsb' 0 8)).setPc pc)) (setSp_setSp s _ _)

/-- What PJSR leaves in the state, from an even SP in maximum mode (R248). -/
theorem pageCallTo_result {s : State} (heven : s.sp.getLsbD 0 = false) (hm : s.mode = .max) (p : Byte) (target : Word) :
    ∃ t, pageCallTo p target s = .next t ∧ t.sp = s.sp - 4 ∧ t.wordAt (phys s .stack (s.sp - 2)) = some s.pc ∧
      t.byteAt (phys s .stack (s.sp - 3)) = some s.cp ∧ t.cp = p ∧ t.pc = target ∧ t.sr = s.sr ∧
      sameRegs [Config.spIndex] s t ∧ sameMemory (stackBytes s 2) s t ∧ t.mode = s.mode ∧ t.br = s.br ∧ t.ep = s.ep ∧
      t.dp = s.dp ∧ t.tp = s.tp ∧ t.runState = s.runState := by
  have hpushed := pagePushed_of_even heven hm s.pc
  obtain ⟨hregs, ⟨hmode, _, _, _, hbr, hep, hdp, htp, hrun⟩, hmem⟩ := hpushed.framed
  exact ⟨_, pageCallTo_even heven hm p target, hpushed.sp, hpushed.retWord, hpushed.cpByte heven, rfl, rfl, hpushed.sr, hregs,
    hmem, hmode, hbr, hep, hdp, htp, hrun⟩

/-- Settles O47: the page calls by `pageCallTo_result`, the page returns by `pageReturn_even`. -/
theorem pageInstructionResult : Obligations.PageInstructionResult := by
  refine ⟨fun n x p w pc hi s hm => ⟨inMaximumMode_of hm _, fun hn => ?pjmpInd, fun heven => ?pjsr,
    fun heven hhi hpc => ?pageReturn⟩, fun n x p w s => ⟨fun hm => ?minimum, fun hm => ?throughR7⟩⟩
  case pjmpInd => exact (inMaximumMode_of hm _).trans (pageTarget_of_ne hn s _)
  case pjsr =>
    rw [List.forall_mem_cons, List.forall_mem_cons]
    refine ⟨fun _ => ?abs, fun hne => ?ind, List.forall_mem_nil _⟩
    case abs =>
      obtain ⟨t, hcall, ht⟩ := pageCallTo_result heven hm p w
      exact ⟨t, (inMaximumMode_of hm _).trans hcall, ht⟩
    case ind =>
      have hn : n ≠ 7 := hne.resolve_right nofun
      obtain ⟨t, hcall, ht⟩ := pageCallTo_result heven hm ((s.reg n).extractLsb' 0 8) (s.reg (n + 1))
      exact ⟨t, (inMaximumMode_of hm _).trans ((pageTarget_of_ne hn s _).trans hcall), ht⟩
  case pageReturn =>
    have hreturn (imm : Word) := pageReturn_even imm hm heven hhi hpc
    simp only [List.forall_mem_cons]
    exact ⟨hreturn 0, hreturn _, hreturn w, List.forall_mem_nil _⟩
  case minimum =>
    have hrefused := inMaximumMode_min hm
    simp only [List.forall_mem_cons]
    exact ⟨hrefused _, hrefused _, hrefused _, hrefused _, hrefused _, hrefused _, hrefused _, List.forall_mem_nil _⟩
  case throughR7 => exact ⟨(inMaximumMode_of hm _).trans (if_pos rfl), (inMaximumMode_of hm _).trans (if_pos rfl)⟩

/-! ### A return undoes a call -/

/-- RTS in a state that has the SP, TP, mode and return address of a call from `s`. -/
theorem exec_rts_afterCall {s t' : State} (heven : s.sp.getLsbD 0 = false) (hsp : t'.sp = s.sp - 2) (hmode : t'.mode = s.mode)
    (htp : t'.tp = s.tp) (hret : t'.wordAt (phys s .stack (s.sp - 2)) = some s.pc) :
    exec .rts t' = .next ((t'.setSp s.sp).setPc s.pc) := by
  have hdrop := returnDrop_even 0 (s := t') (pc := s.pc) (hsp ▸ sub_two_even _ heven)
    (by rw [phys_stack_congr hmode htp, hsp, hret])
  rw [hsp, sub_add_cancel, add_zero] at hdrop
  exact congrArg (complete t') hdrop

theorem rts_undoes_callTo {target : Word} {s t : State} (heven : s.sp.getLsbD 0 = false) (h : callTo target s = .next t) :
    t.cp = s.cp ∧ ∀ t' : State, t'.sp = t.sp → t'.mode = t.mode → t'.tp = t.tp →
      t'.wordAt (phys s .stack t.sp) = t.wordAt (phys s .stack t.sp) →
      exec .rts t' = .next ((t'.setSp s.sp).setPc s.pc) := by
  obtain ⟨u, hu, hsp, hret, _, hcp, _, _, _, hmode, _, _, _, htp, _⟩ := callTo_pushedWord heven target
  obtain rfl := Host.Outcome.next.inj (hu.symm.trans h)
  refine ⟨hcp, fun t' hsp' hmode' htp' hword => ?_⟩
  rw [hsp, hret] at hword
  exact exec_rts_afterCall heven (hsp'.trans hsp) (hmode'.trans hmode) (htp'.trans htp) hword

/-- PRTS in a state that has the SP, TP, mode and the two words of a page call from `s`. -/
theorem exec_prts_afterPageCall {s t' : State} {hi : Byte} (heven : s.sp.getLsbD 0 = false) (hm : s.mode = .max)
    (hsp : t'.sp = s.sp - 4) (hmode : t'.mode = s.mode) (htp : t'.tp = s.tp)
    (hcp : t'.wordAt (phys s .stack (s.sp - 4)) = some (hi ++ s.cp))
    (hret : t'.wordAt (phys s .stack (s.sp - 2)) = some s.pc) :
    exec .prts t' = .next (((t'.setSp s.sp).setCp s.cp).setPc s.pc) := by
  have hstack : phys t' .stack = phys s .stack := funext (phys_stack_congr hmode htp)
  have hreturn := pageReturn_even 0 (s := t') (hi := hi ++ s.cp) (pc := s.pc) (hmode.trans hm)
    (by rw [hsp, ← sub_two_two]; exact sub_two_even _ (sub_two_even _ heven))
    (by rw [hstack, hsp, hcp]) (by rw [hstack, hsp, sub_four_add_two, hret])
  rw [hsp, sub_four_add_four, add_zero, BitVec.extractLsb'_append_eq_right] at hreturn
  exact hreturn

theorem sameRegs_nil_of_sp {s t : State} (h : sameRegs [Config.spIndex] s t) : sameRegs [] s (t.setSp s.sp) := by
  intro r _
  by_cases hr : r = Config.spIndex
  · subst hr
    exact State.sp_setSp t s.sp
  · rw [State.reg_setSp, if_neg hr, h r (by simpa using hr)]

/-- Settles O46: the words a return pops are those the call pushed. -/
theorem returnUndoesCall : Obligations.ReturnUndoesCall := by
  refine ⟨fun n x w s t heven => ?call, fun n p w s t heven i hi h => ?pageCall⟩
  case call =>
    have hcall (target : Word) := rts_undoes_callTo (target := target) (t := t) heven
    simp only [List.forall_mem_cons]
    exact ⟨hcall _, hcall _, hcall _, hcall _, hcall _, hcall _, List.forall_mem_nil _⟩
  case pageCall =>
    obtain ⟨hm, page, target, rfl⟩ := exec_pjsr_next heven hi h
    have hpushed := pagePushed_of_even heven hm s.pc
    obtain ⟨hi, hcp⟩ := hpushed.cpWord
    obtain ⟨hregs, ⟨hmode, _, ht, himask, hbr, hep, hdp, htp, hrun⟩, hmem⟩ := hpushed.framed
    have hprts (t' : State) := exec_prts_afterPageCall (t' := t') (hi := hi) heven hm
    refine ⟨fun t' hsp' hmode' htp' hwords => ?_,
      ⟨_, hprts _ hpushed.sp hmode htp hcp hpushed.retWord, rfl, hpushed.sr, sameRegs_nil_of_sp hregs,
        ⟨hmode, rfl, ht, himask, hbr, hep, hdp, htp, hrun⟩, hmem⟩⟩
    rw [State.setPc_sp, State.setCp_sp, hpushed.sp, sub_four_add_two] at hwords
    exact hprts t' (hsp'.trans hpushed.sp) (hmode'.trans hmode) (htp'.trans htp) ((hwords _ (by simp)).trans hcp)
      ((hwords _ (by simp)).trans hpushed.retWord)

end Sys2Proof.Machine

end Branches

/-! ## System control

The instructions of 46_system.md: what they leave in the control registers (R267, R271 to R275, R277), the stack frame of LINK
and UNLK (R268, R269), the traps (R265, R266) and the return that undoes an exception entry (R267), SLEEP and NOP (R270,
R276). -/

section SystemControl

namespace Sys2Proof.Machine

/-! ### Who writes the control registers -/

/-- The interrupt mask is kept, and T is kept or cleared. -/
def KeepsMask (s t : State) : Prop := t.sr.imask = s.sr.imask ∧ (t.sr.t = s.sr.t ∨ t.sr.t = false)

/-- BR and the page registers are kept. -/
def KeepsPages (s t : State) : Prop := t.br = s.br ∧ t.ep = s.ep ∧ t.dp = s.dp ∧ t.tp = s.tp

theorem KeepsMask.trans (s t u : State) (h1 : KeepsMask s t) (h2 : KeepsMask t u) : KeepsMask s u := by
  obtain ⟨hmask, ht⟩ := h1
  obtain ⟨hmask', ht'⟩ := h2
  refine ⟨hmask'.trans hmask, ?_⟩
  rcases ht' with hkept | hclear
  · exact hkept ▸ ht
  · exact .inr hclear

theorem KeepsPages.refl (s : State) : KeepsPages s s := ⟨rfl, rfl, rfl, rfl⟩

theorem KeepsPages.trans (s t u : State) (h1 : KeepsPages s t) (h2 : KeepsPages t u) : KeepsPages s u := by
  obtain ⟨hbr, hep, hdp, htp⟩ := h1
  obtain ⟨hbr', hep', hdp', htp'⟩ := h2
  exact ⟨hbr'.trans hbr, hep'.trans hep, hdp'.trans hdp, htp'.trans htp⟩

/-- Of the changes that are no write of a control register only the clearing of T touches what `KeepsMask` speaks of. -/
theorem Change.keepsMask (s t : State) (c : Change false s t) : KeepsMask s t := by
  cases c with
  | clearT => exact ⟨rfl, .inr rfl⟩
  | sr _ h | br _ h | ep _ h | dp _ h | tp _ h => cases h
  | _ => exact ⟨rfl, .inl rfl⟩

theorem Change.keepsPages (s t : State) (c : Change false s t) : KeepsPages s t := by
  cases c with
  | sr _ h | br _ h | ep _ h | dp _ h | tp _ h => cases h
  | _ => exact .refl _

theorem Reach.keepsMask {s t : State} (h : Reach false s t) : KeepsMask s t :=
  h.induct (fun _ => ⟨rfl, .inl rfl⟩) KeepsMask.trans Change.keepsMask

theorem Reach.keepsPages {s t : State} (h : Reach false s t) : KeepsPages s t :=
  h.induct KeepsPages.refl KeepsPages.trans Change.keepsPages

/-- SLEEP included, an instruction that writes no control register keeps the mask and the pages. -/
theorem exec_keepsControl {i : Instr} {s t : State} (hi : writesControl i = false) (h : exec i s = .next t) :
    KeepsMask s t ∧ KeepsPages s t := by
  by_cases hsleep : i = .sleep
  · subst hsleep
    cases h
    exact ⟨⟨rfl, .inl rfl⟩, .refl _⟩
  · have hreach : Reach false s t := hi ▸ exec_reach i s t hsleep h
    exact ⟨hreach.keepsMask, hreach.keepsPages⟩

/-- The one control register a return writes is SR. -/
theorem returnFromException_keepsPages {s t : State} (h : returnFromException s = .ok t) : KeepsPages s t := by
  obtain ⟨w, s1, s2, pc, s3, hsr, hpage, hpc, rfl⟩ := returnFromException_ok h
  have hbefore : KeepsPages s s1 := (reach_pop16 hsr).keepsPages
  have hafter : KeepsPages (s1.setSr (Status.ofWord w)) (s3.setPc pc) :=
    (((reach_popPage hpage).trans (reach_pop16 hpc)).step (.pc _ _)).keepsPages
  exact hbefore.trans _ _ _ hafter

theorem exec_rte_keepsPages {s t : State} (h : exec .rte s = .next t) : KeepsPages s t := by
  rcases complete_next h with hreturn | ⟨touched, _, hraise⟩
  · exact returnFromException_keepsPages hreturn
  · exact (reach_raiseAddressError hraise).keepsPages

/-- Settles O12: every instruction but five by the changes it is made of, RTE by what it pops. -/
theorem onlyControlInstructionsWriteControlRegisters : Obligations.OnlyControlInstructionsWriteControlRegisters := by
  refine fun i s t h => ⟨fun hi => (exec_keepsControl hi h).1, fun hi => ?_⟩
  rcases hi with hi | rfl
  · exact (exec_keepsControl hi h).2
  · exact exec_rte_keepsPages h

/-! ### LDC and STC -/

theorem Flags.ofBits_low {n : Nat} (v : BitVec n) :
    Flags.ofBits (v.extractLsb' 0 4) = { n := v.getLsbD 3, z := v.getLsbD 2, v := v.getLsbD 1, c := v.getLsbD 0 } := by
  simp [Flags.ofBits]

/-- What SR is written to, by the bits of the word (R277). -/
theorem writeCtl_sr (v : Word) (s : State) :
    writeCtl .sr v s = s.setSr
      { t := v.getLsbD 15, imask := v.extractLsb' 8 3,
        flags := { n := v.getLsbD 3, z := v.getLsbD 2, v := v.getLsbD 1, c := v.getLsbD 0 } } := by
  simp only [writeCtl, BitVec.setWidth_eq, Status.ofWord, Flags.ofBits_low]

/-- What CCR is written to: the flags, and no other bit of SR (R277). -/
theorem writeCtl_ccr (v : Byte) (s : State) :
    writeCtl .ccr v s =
      s.setFlags { n := v.getLsbD 3, z := v.getLsbD 2, v := v.getLsbD 1, c := v.getLsbD 0 } := by
  simp only [writeCtl, BitVec.setWidth_eq, Status.withCcr, Flags.ofBits_low]
  rfl

theorem writeCtl_br (v : Byte) (s : State) : writeCtl .br v s = s.setBr v := congrArg s.setBr (BitVec.setWidth_eq v)
theorem writeCtl_ep (v : Byte) (s : State) : writeCtl .ep v s = s.setEp v := congrArg s.setEp (BitVec.setWidth_eq v)
theorem writeCtl_dp (v : Byte) (s : State) : writeCtl .dp v s = s.setDp v := congrArg s.setDp (BitVec.setWidth_eq v)
theorem writeCtl_tp (v : Byte) (s : State) : writeCtl .tp v s = s.setTp v := congrArg s.setTp (BitVec.setWidth_eq v)

theorem readCtl_sr (s : State) : readCtl 16 .sr s = s.sr.toWord := BitVec.setWidth_eq _
theorem readCtl_ccr (s : State) : readCtl 8 .ccr s = s.sr.toCcr := BitVec.setWidth_eq _
theorem readCtl_br (s : State) : readCtl 8 .br s = s.br := BitVec.setWidth_eq _
theorem readCtl_ep (s : State) : readCtl 8 .ep s = s.ep := BitVec.setWidth_eq _
theorem readCtl_dp (s : State) : readCtl 8 .dp s = s.dp := BitVec.setWidth_eq _
theorem readCtl_tp (s : State) : readCtl 8 .tp s = s.tp := BitVec.setWidth_eq _

/-- SR as a word, bit by bit (10_state.md R30). -/
theorem Status.toWord_bits (x : Status) :
    x.toWord.getLsbD 15 = x.t ∧ x.toWord.extractLsb' 8 3 = x.imask ∧ x.toWord &&& 0x78F0 = 0 ∧
      x.toWord.getLsbD 3 = x.flags.n ∧ x.toWord.getLsbD 2 = x.flags.z ∧ x.toWord.getLsbD 1 = x.flags.v ∧
      x.toWord.getLsbD 0 = x.flags.c ∧ x.toCcr = x.toWord.extractLsb' 0 8 := by
  have hread : Status.ofWord x.toWord = x := x.ofWord_toWord
  rw [Status.ofWord, Flags.ofBits_low] at hread
  have hflags := congrArg Status.flags hread
  exact ⟨congrArg Status.t hread, congrArg Status.imask hread, x.toWord_reserved, congrArg Flags.n hflags,
    congrArg Flags.z hflags, congrArg Flags.v hflags, congrArg Flags.c hflags, BitVec.extractLsb'_append_eq_right.symm⟩

theorem exec_ldc {sz : Size} {src : SrcEa} {cr : CtlReg} {v : BitVec sz.bits} {s s1 : State}
    (hcr : ctlAllowed sz cr = true) (h : fetchSource sz none src s = .ok (v, s1)) :
    exec (.ldc sz src cr) s = .next (writeCtl cr v s1) :=
  (onAllowed_of hcr _).trans (withSource_ok h _)

/-- STC to a register is one register write. -/
theorem exec_stc_reg {sz : Size} {cr : CtlReg} (hcr : ctlAllowed sz cr = true) (d : Reg) (s : State) :
    exec (.stc sz cr (.reg d)) s = .next (s.setRegOp sz d (readCtl sz.bits cr s)) := by
  have hput := putDest_ok (sz := sz) (other := none) (dst := .reg d) (v := readCtl sz.bits cr) (g := State.flags)
    (s := s) rfl rfl
  rw [← s.setRegOp_flags sz d (readCtl sz.bits cr s), setFlags_self] at hput
  exact (onAllowed_of hcr _).trans hput

theorem exec_stc_byte_reg {cr : CtlReg} (hcr : ctlAllowed .byte cr = true) (d : Reg) (s : State) :
    ∃ t, exec (.stc .byte cr (.reg d)) s = .next t ∧ t.regOp .byte d = readCtl 8 cr s ∧ upperKept .byte d s t ∧
      t.sr = s.sr ∧ t.pc = s.pc ∧ framed [d] [] s t :=
  ⟨_, exec_stc_reg hcr d s, s.regOp_setRegOp .byte d _, fun _ => by simp [State.setRegOp], rfl, rfl,
    framed_setRegOp s .byte d _⟩

/-- The side effect of a mode writes no control register. -/
theorem readCtl_memEffect (n : Nat) (cr : CtlReg) (sz : Size) (m : MemEa) (s : State) :
    readCtl n cr (memEffect sz m s) = readCtl n cr s := by
  obtain ⟨_, ⟨_, _, _, _, hbr, hep, hdp, htp, _⟩, _⟩ := framed_memEffect sz m s
  simp only [readCtl, memEffect_sr, hbr, hep, hdp, htp]

theorem exec_stc_byte_mem {cr : CtlReg} (hcr : ctlAllowed .byte cr = true) {m : MemEa} (s : State)
    (hmode : eaRefusal .byte none m = none) :
    ∃ t, exec (.stc .byte cr (.mem m)) s = .next t ∧
      wroteOperand .byte (.mem m) (.mem (memAddr .byte m s) (autoBase m)) (readCtl 8 cr s) s t ∧ t.flags = s.flags := by
  dsimp only [exec, execStc]
  rw [onAllowed_of hcr]
  exact putDest_wroteOperand hmode rfl (readCtl_memEffect _ cr _ m s) (memEffect_flags _ _ _)

/-- Settles O56: LDC by `exec_ldc` and the writes of each register, STC by the reads of each. -/
theorem controlRegisterTransfer : Obligations.ControlRegisterTransfer := by
  refine ⟨fun src s s1 => ⟨fun v h => ?ldcWord, fun v h => ?ldcByte⟩,
    fun d m s => ⟨?stcWord, s.sr.toWord_bits, ?stcByte⟩⟩
  case ldcWord => rw [exec_ldc rfl h, writeCtl_sr]
  case ldcByte =>
    have hldc {cr : CtlReg} (hcr : ctlAllowed .byte cr = true) := exec_ldc hcr h
    rw [hldc rfl, hldc rfl, hldc rfl, hldc rfl, hldc rfl, writeCtl_ccr, writeCtl_br, writeCtl_ep, writeCtl_dp, writeCtl_tp]
    exact ⟨rfl, rfl, rfl, rfl, rfl⟩
  case stcWord =>
    refine ⟨_, exec_stc_reg rfl d s, ?_, rfl, rfl, framed_setRegOp s .word d _⟩
    rw [readCtl_sr, State.setRegOp_word, State.reg_setReg, if_pos rfl]
  case stcByte =>
    have hstc {cr : CtlReg} (hcr : ctlAllowed .byte cr = true) :=
      And.intro (exec_stc_byte_reg hcr d s) (exec_stc_byte_mem (m := m) hcr s)
    simp only [List.forall_mem_cons, ← readCtl_ccr, ← readCtl_br, ← readCtl_ep, ← readCtl_dp, ← readCtl_tp]
    exact ⟨hstc rfl, hstc rfl, hstc rfl, hstc rfl, hstc rfl, List.forall_mem_nil _⟩

/-! ### ANDC, ORC, XORC -/

theorem ctlImmediate_byte {cr : CtlReg} (hcr : ctlAllowed .byte cr = true) (x : Byte) (f : Byte → Byte → Byte) (s : State) :
    ctlImmediate (.imm8 x) cr s f = .next (writeCtl cr (f (readCtl 8 cr s) x) s) :=
  (onAllowed_of hcr _).trans
    (congrArg (fun v => Host.Outcome.next (writeCtl cr (f (readCtl 8 cr s) v) s)) (BitVec.setWidth_eq x))

/-- R273 to R275 for a byte register that reads as `a` and is written by `put`. -/
theorem exec_ctlImmediate_byte {cr : CtlReg} {a : Byte} {put : Byte → State} {s : State}
    (hcr : ctlAllowed .byte cr = true) (hread : readCtl 8 cr s = a) (hwrite : ∀ v : Byte, writeCtl cr v s = put v)
    (x : Byte) :
    ∀ p ∈ [(Instr.andc (.imm8 x) cr, a &&& x), (.orc (.imm8 x) cr, a ||| x), (.xorc (.imm8 x) cr, a ^^^ x)],
      exec p.1 s = .next (put p.2) := by
  have hexec (f : Byte → Byte → Byte) : ctlImmediate (.imm8 x) cr s f = .next (put (f a x)) := by
    rw [ctlImmediate_byte hcr, hread, hwrite]
  simp only [List.forall_mem_cons]
  exact ⟨hexec _, hexec _, hexec _, List.forall_mem_nil _⟩

theorem ctlImmediate_sr (w : Word) (f : Word → Word → Word) (s : State) :
    ctlImmediate (.imm16 w) .sr s f = .next (writeCtl .sr (f s.sr.toWord w) s) :=
  (onAllowed_of rfl _).trans
    (congrArg₂ (fun a b => Host.Outcome.next (writeCtl .sr (f a b) s)) (readCtl_sr s) (BitVec.setWidth_eq w))

/-- Settles O57: `exec_ctlImmediate_byte` at the five byte registers, and SR. -/
theorem controlImmediateResult : Obligations.ControlImmediateResult := by
  intro x w s bits ccr sr
  refine ⟨exec_ctlImmediate_byte rfl (readCtl_br s) (writeCtl_br · s) x,
    exec_ctlImmediate_byte rfl (readCtl_ep s) (writeCtl_ep · s) x,
    exec_ctlImmediate_byte rfl (readCtl_dp s) (writeCtl_dp · s) x,
    exec_ctlImmediate_byte rfl (readCtl_tp s) (writeCtl_tp · s) x,
    exec_ctlImmediate_byte rfl (readCtl_ccr s) (writeCtl_ccr · s) x, ?sr⟩
  case sr =>
    have hexec (f : Word → Word → Word) : ctlImmediate (.imm16 w) .sr s f =
        .next (s.setSr
          { t := (f sr w).getLsbD 15, imask := (f sr w).extractLsb' 8 3, flags := bits ((f sr w).setWidth 8) }) := by
      rw [ctlImmediate_sr, writeCtl_sr]
      simp [bits, sr]
    simp only [List.forall_mem_cons]
    exact ⟨hexec _, hexec _, hexec _, List.forall_mem_nil _⟩

/-! ### LINK and UNLK -/

@[simp] theorem State.sp_setReg_fp (s : State) (v : Word) : (s.setReg Config.fpIndex v).sp = s.sp := by
  rw [State.sp_eq, State.reg_setReg, if_neg (by decide), State.sp_eq]

/-- The state LINK leaves from an even SP (R268). -/
def State.linked (imm : Word) (s : State) : State :=
  ((s.pushRaw (s.reg Config.fpIndex)).setReg Config.fpIndex (s.sp - 2)).setSp (s.sp - 2 + imm)

theorem linkFrame_even {s : State} (heven : s.sp.getLsbD 0 = false) (imm : Word) :
    linkFrame imm s = .next (s.linked imm) := by
  simp only [linkFrame, push16_even s _ heven, bind, Except.bind, pure, Except.pure, complete, State.sp_setReg_fp,
    State.pushRaw_sp]
  rfl

theorem linked_fp (imm : Word) (s : State) : (s.linked imm).reg Config.fpIndex = s.sp - 2 := by
  rw [State.linked, State.reg_setSp, if_neg (by decide), State.reg_setReg, if_pos rfl]

/-- The old FP lies where FP points. -/
theorem linked_wordAt {s : State} (heven : s.sp.getLsbD 0 = false) (imm : Word) :
    (s.linked imm).wordAt (phys s .stack (s.sp - 2)) = some (s.reg Config.fpIndex) := by
  obtain ⟨_, hword, _⟩ := pushedWord_pushRaw heven (s.reg Config.fpIndex) s.pc
  exact hword

theorem framed_linked (imm : Word) (s : State) :
    framed [Config.fpIndex, Config.spIndex] (stackBytes s 1) s (s.linked imm) :=
  ((framed_pushRaw s _).mono (by simp) fun _ ha => ha).trans
    ((framed_setReg_setReg _ Config.spIndex Config.fpIndex _ _).mono (by simp) (by simp))

/-- UNLK from an even FP where its word is there (R269). -/
theorem exec_unlk_even {s : State} {w : Word} (heven : (s.reg Config.fpIndex).getLsbD 0 = false)
    (hword : s.wordAt (phys s .stack (s.reg Config.fpIndex)) = some w) :
    exec .unlk s = .next ((s.setSp (s.reg Config.fpIndex + 2)).setReg Config.fpIndex w) := by
  have hpop := pop16_even (s := s.setSp (s.reg Config.fpIndex)) (v := w) (some Config.spIndex)
    (by rw [State.sp_setSp, heven]) (by rw [State.sp_setSp, phys_setSp, State.setSp_wordAt, hword])
  rw [State.sp_setSp, setSp_setSp] at hpop
  dsimp only [exec, execUnlk]
  rw [hpop]
  rfl

/-- UNLK after LINK finds FP where LINK left it, whatever SP has become. -/
theorem exec_unlk_linked {s : State} (heven : s.sp.getLsbD 0 = false) (imm v : Word) :
    exec .unlk ((s.linked imm).setSp v) =
      .next ((((s.linked imm).setSp v).setSp s.sp).setReg Config.fpIndex (s.reg Config.fpIndex)) := by
  have hfp : ((s.linked imm).setSp v).reg Config.fpIndex = s.sp - 2 := by
    rw [State.reg_setSp, if_neg (by decide), linked_fp]
  have hword : ((s.linked imm).setSp v).wordAt (phys ((s.linked imm).setSp v) .stack (s.sp - 2)) =
      some (s.reg Config.fpIndex) := linked_wordAt heven imm
  have hunlk := exec_unlk_even (by rw [hfp, sub_two_even _ heven]) (by rw [hfp, hword])
  rw [hfp, sub_add_cancel] at hunlk
  exact hunlk

/-- What LINK leaves in the state, and that UNLK undoes it. -/
theorem linkFrame_result {s : State} (heven : s.sp.getLsbD 0 = false) (imm : Word) :
    ∃ t, linkFrame imm s = .next t ∧ t.reg Config.fpIndex = s.sp - 2 ∧ t.sp = s.sp - 2 + imm ∧
      t.wordAt (phys s .stack (s.sp - 2)) = some (s.reg Config.fpIndex) ∧ t.flags = s.flags ∧ t.pc = s.pc ∧
      framed [Config.fpIndex, Config.spIndex] (stackBytes s 1) s t ∧
      ∀ v : Word, ∃ u, exec .unlk (t.setSp v) = .next u ∧ u.reg Config.fpIndex = s.reg Config.fpIndex ∧ u.sp = s.sp :=
  ⟨_, linkFrame_even heven imm, linked_fp imm s, State.sp_setSp _ _, linked_wordAt heven imm, rfl, rfl, framed_linked imm s,
    fun v => ⟨_, exec_unlk_linked heven imm v, by simp, by simp⟩⟩

/-- Settles O48: `linkFrame_result` at both immediates, and `exec_unlk_even`. -/
theorem linkAndUnlink : Obligations.LinkAndUnlink := by
  refine fun x w s => ⟨fun heven => ?link, fun heven hword => ?unlk⟩
  case link =>
    simp only [List.forall_mem_cons]
    exact ⟨linkFrame_result heven _, linkFrame_result heven w, List.forall_mem_nil _⟩
  case unlk =>
    exact ⟨_, exec_unlk_even heven hword, by simp, by simp, rfl, rfl,
      framed_setReg_setReg s Config.fpIndex Config.spIndex _ _⟩

/-! ### Traps -/

theorem ofEntry_takeException_even {n : Nat} {ret : Word} {cp : Byte} {pc : Word} {s : State}
    (heven : s.sp.getLsbD 0 = false) (h : vectorGives n cp pc s) :
    ∃ t, ofEntry (takeException n ret s) = .next t ∧ entered ret cp pc s t :=
  ⟨_, congrArg ofEntry (takeException_even heven h), entered_handlerEntered ret cp pc heven⟩

/-- Settles O50: both traps are the shared entry, TRAP/VS when V is set. -/
theorem trapResult : Obligations.TrapResult := by
  refine fun v cp pc s => ⟨ofEntry_takeException_even, fun hv heven h => ?set, fun hv => ?clear⟩
  case set =>
    obtain ⟨t, htaken, hentered⟩ := ofEntry_takeException_even (ret := s.pc) heven h
    exact ⟨t, (if_pos hv).trans htaken, hentered⟩
  case clear => exact if_neg (by simp [hv])

/-! ### RTE after an exception entry -/

/-- An entry that completes started from an even SP and ends in `handlerEntered`, in minimum mode with CP kept. -/
theorem takeException_handlerEntered {n : Nat} {ret : Word} {s t : State} (h : takeException n ret s = .ok t) :
    s.sp.getLsbD 0 = false ∧ ∃ cp pc, (s.mode = .min → cp = s.cp) ∧ t = s.handlerEntered ret cp pc := by
  have heven : s.sp.getLsbD 0 = false := by
    by_contra hodd
    rw [takeException_odd (by simpa using hodd)] at h
    cases h
  obtain ⟨s1, s2, hframe, hvector, rfl⟩ := takeException_ok h
  obtain rfl := Except.ok.inj ((stackFrame_even ret s heven).symm.trans hframe)
  obtain ⟨hcp, hsr, _⟩ := s.framePushed_fields ret
  rw [hsr] at hvector
  have hmode : (s.vectorRead ret).mode = s.mode := s.framePushed_mode ret
  refine ⟨heven, ?_⟩
  rcases loadVector_ok hvector with ⟨_, pc, _, rfl⟩ | ⟨hmax, hi, pc, _, _, rfl⟩
  · refine ⟨s.cp, pc, fun _ => rfl, ?_⟩
    rw [State.handlerEntered, State.setCp_of_eq (s := s.vectorRead ret) hcp]
    rfl
  · exact ⟨_, pc, fun hmin => absurd ((hmode.trans hmin).symm.trans hmax) (by decide), rfl⟩

/-- RTE in a state that has the SP, TP, mode and frame of an entry from `s` pops the words of that frame (60_exceptions.md
R308). -/
theorem exec_rte_afterEntry {s t : State} {ret : Word} {hi : Byte} (heven : s.sp.getLsbD 0 = false)
    (hsp : t.sp = s.sp - BitVec.ofNat 16 (2 * frameWords s.mode)) (hmode : t.mode = s.mode) (htp : t.tp = s.tp)
    (hsr : t.wordAt (phys s .stack t.sp) = some s.sr.toWord) (hret : t.wordAt (phys s .stack (s.sp - 2)) = some ret)
    (hmin : s.mode = .min → t.cp = s.cp)
    (hmax : s.mode = .max → t.wordAt (phys s .stack (s.sp - 4)) = some (hi ++ s.cp)) :
    exec .rte t = .next ((((t.setSp s.sp).setSr s.sr).setCp s.cp).setPc ret) := by
  have hspEven : t.sp.getLsbD 0 = false := hsp ▸ sub_words_even heven _
  rw [← phys_stack_congr hmode htp] at hsr hret
  cases hm : s.mode with
  | min =>
    have hsp4 : t.sp = s.sp - 4 := by rw [hsp, hm]; rfl
    have hreturn := returnFromException_min hspEven (hmode.trans hm) hsr (by rw [hsp4, sub_four_add_two, hret])
    rw [hsp4, sub_four_add_four, Status.ofWord_toWord] at hreturn
    rw [State.setCp_of_eq (s := (t.setSp s.sp).setSr s.sr) (hmin hm)]
    exact congrArg (complete t) hreturn
  | max =>
    have hsp6 : t.sp = s.sp - 6 := by rw [hsp, hm]; rfl
    have hcp := hmax hm
    rw [← phys_stack_congr hmode htp] at hcp
    have hreturn := returnFromException_max hspEven (hmode.trans hm) hsr (by rw [hsp6, sub_six_add_two, hcp])
      (by rw [hsp6, sub_six_add_four, hret])
    rw [hsp6, sub_six_add_six, Status.ofWord_toWord, BitVec.extractLsb'_append_eq_right] at hreturn
    exact congrArg (complete t) hreturn

/-- Settles O53: RTE at the end of an entry, field by field. -/
theorem returnUndoesEntry : Obligations.ReturnUndoesEntry := by
  intro n ret s t h
  obtain ⟨heven, cp, pc, hcp, rfl⟩ := takeException_handlerEntered h
  obtain ⟨hsp, hsr, _, hret, _, _, _, _, hmode, hbr, hep, hdp, htp, hregs, _⟩ := entered_handlerEntered ret cp pc heven
  obtain ⟨_, _, hcpWord⟩ := framePushed_words ret s heven
  exact ⟨_, exec_rte_afterEntry heven hsp hmode htp hsr hret hcp hcpWord, rfl, rfl, rfl,
    fun r => sameRegs_nil_of_sp hregs r (by simp), hbr, hep, hdp, htp⟩

/-! ### SLEEP and NOP -/

/-- No elementary change enters the power-down state. -/
theorem Change.staysRunning {k : Bool} {s t : State} (c : Change k s t) (h : s.runState = .running) :
    t.runState = .running := by
  cases c with
  | awake => rfl
  | _ => exact h

/-- Settles O54: every instruction but SLEEP is made of changes that keep normal running. -/
theorem sleepEntersPowerDown : Obligations.SleepEntersPowerDown :=
  ⟨fun _ => rfl, fun _ => step_powerDown, fun i s t hi hrun h =>
    (exec_reach i s t hi h).induct (P := fun s t => s.runState = .running → t.runState = .running) (fun _ => id)
      (fun _ _ _ h1 h2 => h2 ∘ h1) (fun _ _ c => c.staysRunning) hrun⟩

/-- Settles O55: the step is that of an encoded instruction. -/
theorem nopOnlyAdvancesPc : Obligations.NopOnlyAdvancesPc := by
  refine ⟨rfl, fun _ => rfl, fun s hrun ht hfetch => ?step, fun _ _ => ⟨_, rfl, rfl, rfl⟩⟩
  case step =>
    refine stepRunsEncodedInstruction s .nop hrun ht rfl fun k hk => ?_
    obtain rfl : k = 0 := Nat.lt_one_iff.1 hk
    exact hfetch

end Sys2Proof.Machine

end SystemControl

/-! ## Trace and interrupts

The two exceptions that are taken between instructions: trace in the step of a T set at its start (60_exceptions.md R312), and
a request from outside, which also raises the mask (R297, R310). Both are the shared entry, from the state the instruction
before leaves. -/

section TraceAndInterrupts

namespace Sys2Proof.Machine

/-! ### The shared entry -/

/-- Settles O49: an entry from an even SP ends in `handlerEntered`. -/
theorem exceptionEntry : Obligations.ExceptionEntry :=
  fun _ ret cp pc _ heven hvector => ⟨_, takeException_even heven hvector, entered_handlerEntered ret cp pc heven⟩

/-! ### Trace -/

/-- With T set, an outcome that goes on goes on into the trace exception. -/
theorem traceAfter_true_next (u : State) :
    traceAfter true (.next u) = ofEntry (takeException Config.vecTrace u.pc u) := rfl

/-- An entry that completes leaves SP even, so that a further exception can be taken. -/
theorem takeException_spEven {n : Nat} {ret : Word} {s u : State} (h : takeException n ret s = .ok u) :
    u.sp.getLsbD 0 = false := by
  obtain ⟨heven, cp, pc, _, rfl⟩ := takeException_handlerEntered h
  obtain ⟨hsp, _⟩ := entered_handlerEntered ret cp pc heven
  rw [hsp]
  exact sub_words_even heven _

/-- Settles O8: the instruction, or the InvalidInstruction entry, ends in `u` with SP even; the trace entry is taken there. -/
theorem traceFollowsTheInstruction : Obligations.TraceFollowsTheInstruction := by
  refine ⟨fun s s1 u i cp pc hrun ht hfetch hexec heven hvector => ?instruction,
    fun s u cp pc hrun ht hdec hraise hvector => ?unassigned⟩
  case instruction =>
    rw [step_of_fetch hrun hfetch, ht, hexec, traceAfter_true_next]
    exact ofEntry_takeException_even heven hvector
  case unassigned =>
    rw [step_unassigned hrun hdec, ht, hraise, ofEntry, traceAfter_true_next]
    exact ofEntry_takeException_even (takeException_spEven hraise) hvector

/-! ### Interrupts -/

theorem acceptInterrupt_masked {level : Nat} {s : State} (h : level ≤ s.sr.imask.toNat) (n : Nat) :
    acceptInterrupt n level s = .next s :=
  if_neg (by simpa [acceptsLevel] using h)

/-- A level above the mask enters its exception, and then the mask is raised (60_exceptions.md R297). -/
theorem acceptInterrupt_above {n level : Nat} {cp : Byte} {pc : Word} {s : State} (h : s.sr.imask.toNat < level)
    (heven : s.sp.getLsbD 0 = false) (hvector : vectorGives n cp pc s) :
    ∃ u, acceptInterrupt n level s = .next (u.setSr { u.sr with imask := maskOfLevel level }) ∧ entered s.pc cp pc s u := by
  refine ⟨_, ?_, entered_handlerEntered s.pc cp pc heven⟩
  have haccepts : acceptsLevel level s = true := by simpa [acceptsLevel] using h
  rw [acceptInterrupt, if_pos haccepts, takeException_even heven hvector]

theorem toNat_maskOfLevel {level : Nat} (h : level ≤ 7) : (maskOfLevel level).toNat = level := by
  rcases h.lt_or_eq with hlt | rfl
  · rw [maskOfLevel, if_neg (by omega), BitVec.toNat_ofNat, Nat.mod_eq_of_lt (by omega)]
  · rfl

/-- Settles O59: NMI is level 8, above every mask. -/
theorem interruptAcceptance : Obligations.InterruptAcceptance := by
  refine fun n level cp pc s => ⟨fun hmasked => acceptInterrupt_masked hmasked n,
    fun habove hlevel heven hvector => ?above, fun heven hvector => ?nmi⟩
  case above =>
    obtain ⟨u, haccept, hentered⟩ := acceptInterrupt_above habove heven hvector
    exact ⟨_, u, haccept, hentered, toNat_maskOfLevel hlevel, rfl⟩
  case nmi =>
    obtain ⟨u, haccept, hentered⟩ := acceptInterrupt_above s.sr.imask.isLt heven hvector
    exact ⟨_, u, haccept, hentered, rfl⟩

end Sys2Proof.Machine

end TraceAndInterrupts

/-! ## State counts

Each kind of row of the timing tables has one cell, but for the row of MOVTPE and MOVFPE (70_reset_and_hazards.md R348). -/

section StateCounts

namespace Sys2Proof.Machine

/-- A row whose cell is one number, not a range. -/
def Cost.IsFixed (c : Cost) : Prop := c.least = c.most

@[simp] theorem regCost_isFixed (cell : Nat) (sz : Size) (n : Nat) : (regCost cell sz n).IsFixed := rfl

@[simp] theorem memCost_isFixed (cell : Nat) (sz : Size) (accesses k : Nat) (m : MemEa) (n : Nat) :
    (memCost cell sz accesses k m n).IsFixed := rfl

@[simp] theorem flowCost_isFixed (cell i jk odd : Nat) : (flowCost cell i jk odd).IsFixed := rfl

@[simp] theorem srcCost_isFixed (rn mem imm : Nat) (sz : Size) (src : SrcEa) (n : Nat) :
    (srcCost rn mem imm sz src n).IsFixed := by
  cases src <;> rfl

@[simp] theorem dstCost_isFixed (rn mem accesses : Nat) (sz : Size) (dst : DstEa) (n : Nat) :
    (dstCost rn mem accesses sz dst n).IsFixed := by
  cases dst <;> rfl

@[simp] theorem bccCost_isFixed (long : Nat) (sit : Situation) : (bccCost long sit).IsFixed := by
  cases sit <;> rfl

@[simp] theorem scbCost_isFixed (sit : Situation) : (scbCost sit).IsFixed := by
  cases sit <;> rfl

@[simp] theorem divxuCost_isFixed (mode : Mode) (sit : Situation) (sz : Size) (src : SrcEa) (n : Nat) :
    (divxuCost mode sit sz src n).IsFixed := by
  cases sit with
  | zeroDivide | overflow => exact srcCost_isFixed _ _ _ sz src n
  | plain | taken | countEnded => cases sz <;> exact srcCost_isFixed _ _ _ _ src n

/-- The row of every other instruction than MOVTPE and MOVFPE is of one of the fixed kinds. -/
theorem cost_isFixed {mode : Mode} {sit : Situation} {i : Instr} {c : Cost} (hmovtpe : ∀ r m, i ≠ .movtpe r m)
    (hmovfpe : ∀ m d, i ≠ .movfpe m d) (h : cost mode sit i = some c) : c.IsFixed := by
  cases i with
  | movtpe r m => exact absurd rfl (hmovtpe r m)
  | movfpe m d => exact absurd rfl (hmovfpe m d)
  | movGImm8 sz v m =>
    obtain rfl := Option.some.inj h
    cases sz <;> rfl
  | andc imm cr | orc imm cr | xorc imm cr =>
    obtain rfl := Option.some.inj h
    cases imm <;> rfl
  | trapVs =>
    obtain rfl := Option.some.inj h
    cases sit <;> rfl
  | eaRn | eaInd | eaDisp8 | eaDisp16 | eaPreDec | eaPostInc | eaAbs8 | eaAbs16 | eaImm8 | eaImm16 => cases h
  | _ =>
    obtain rfl := Option.some.inj h
    simp

/-- Where a row is fixed, so are the numbers of states, whatever is added to its cell. -/
theorem leastStates_eq_mostStates {mode : Mode} {sit : Situation} {i : Instr}
    (h : ∀ c, cost mode sit i = some c → c.IsFixed) (fetch operand : MemClass) (odd : Bool) :
    leastStates mode sit fetch operand odd i = mostStates mode sit fetch operand odd i := by
  refine Option.map_congr fun c hc => ?_
  rw [show c.least = c.most from h c hc]

/-- Settles O60: the examples are rows of the tables, and every row but that of MOVTPE and MOVFPE is fixed. -/
theorem timingExamples : Obligations.TimingExamples :=
  ⟨⟨rfl, rfl, rfl, rfl, rfl⟩, fun _ _ fetch operand odd _ hmovtpe hmovfpe =>
    leastStates_eq_mostStates (fun _ => cost_isFixed hmovtpe hmovfpe) fetch operand odd⟩

end Sys2Proof.Machine

end StateCounts
